-- ==== Sys2Proof/Word.lean ====
section
/-! DEFINITION. The word and the byte of the SIGMA 2 (00_scope.md R6, R7). -/

namespace Sys2Proof

/-- The 16-bit word, the basic element of SIGMA 2 information (R7). The manual numbers its bits 0 (most
significant) to 15; `BitVec.getMsbD w i` reads bit `i` in that numbering. -/
abbrev Word := BitVec 16

/-- The 8-bit byte (R6). -/
abbrev Byte := BitVec 8

end Sys2Proof
end

