-- ==== Sys2Proof/Syntax.lean ====
section
/-! DEFINITION. The instructions: one constructor for each row of spec/opcode_table.json. -/

namespace Sys2Proof

/-- The eight general registers (10_state.md R21), by the names of their numbers 0 to 7. -/
inductive Gpr
  | z | p | l | t | x1 | x2 | e | a
deriving DecidableEq, Repr

/-- The address fields R, I, X, S and the displacement of the memory-reference format (30_encoding.md R91). -/
structure MemRef where
  r : Bool
  i : Bool
  x : Bool
  s : Bool
  d : Byte
deriving DecidableEq, Repr

/-- The operation field of the copy format (R96). -/
inductive CopyOp
  | land | lor | lxor | add
deriving DecidableEq, Repr

/-- The fields of the copy format that an assembler takes from the argument field: destination, invert source,
source (R96). -/
structure CopyOperands where
  dr : Gpr
  inv : Bool
  sr : Gpr
deriving DecidableEq, Repr

/-- All fields of the copy format (R96). -/
structure CopyFields where
  op : CopyOp
  ac : Bool
  ai : Bool
  cd : Bool
  operands : CopyOperands
deriving DecidableEq, Repr

/-- The functions a READ DIRECT effective address selects (43_direct_control.md R191, R222). -/
inductive RdFunction
  | register (n : BitVec 6)
  | sio | tio | tdv | hio | aio
  | dataSwitches
  | saveStatus
  | saveStatusResetInhibits (i e : Bool)
  | saveStatusSetInhibits (i e : Bool)
  | directIO (ea : Word)
deriving DecidableEq, Repr

/-- The functions a WRITE DIRECT effective address selects (43_direct_control.md R200, R210, R221, R222). -/
inductive WdFunction
  | register (n : BitVec 6)
  | testAndResetBit0 (n : BitVec 6)
  | protectionRegister (r : BitVec 4)
  | loadStatus
  | wait
  | exit
  | resetInhibits (i e : Bool)
  | setInhibits (i e : Bool)
  | interruptControl001 (g : BitVec 4)
  | interruptControl010 (g : BitVec 4)
  | interruptControl011 (g : BitVec 4)
  | interruptControl100 (g : BitVec 4)
  | interruptControl101 (g : BitVec 4)
  | interruptControl110 (g : BitVec 4)
  | interruptControl111 (g : BitVec 4)
  | watchdogDisable
  | watchdogEnable
  | watchdogResetTimer
  | directIO (ea : Word)
deriving DecidableEq, Repr

/-- An instruction. The first constructors are the rows that partition the instruction words; `rand` to `raddc` are
the named settings of the copy instruction (42_copy.md R167 to R181), `copy` the seventeen unnamed ones; the
constructors from `sio` on are RD and WD with the effective address their row names (30_encoding.md R100), and
`ldxExitForm` is LDX with the exit condition set (log entry 2). -/
inductive Instr
  | wd (m : MemRef)
  | rd (m : MemRef)
  | shift (m : MemRef)
  | mul (m : MemRef)
  | b (m : MemRef)
  | div (m : MemRef)
  | lda (m : MemRef)
  | and (m : MemRef)
  | add (m : MemRef)
  | sub (m : MemRef)
  | ldx (m : MemRef)
  | cp (m : MemRef)
  | sta (m : MemRef)
  | im (m : MemRef)
  | ldxExitForm (m : MemRef)
  | bno (disp : BitVec 9)
  | bnc (disp : BitVec 9)
  | baz (disp : BitVec 9)
  | bix (disp : BitVec 9)
  | bxno (disp : BitVec 9)
  | bxnc (disp : BitVec 9)
  | ben (disp : BitVec 9)
  | ban (disp : BitVec 9)
  | copy (f : CopyFields)
  | rand (f : CopyOperands)
  | randi (f : CopyOperands)
  | randc (f : CopyOperands)
  | ror (f : CopyOperands)
  | rcpy (f : CopyOperands)
  | rori (f : CopyOperands)
  | rcpyi (f : CopyOperands)
  | rorc (f : CopyOperands)
  | rcpyc (f : CopyOperands)
  | reor (f : CopyOperands)
  | reori (f : CopyOperands)
  | reorc (f : CopyOperands)
  | radd (f : CopyOperands)
  | raddi (f : CopyOperands)
  | raddc (f : CopyOperands)
  | sio
  | tio
  | tdv
  | hio
  | aio
  | rdRegister (n : BitVec 6)
  | rdDataSwitches
  | rdSaveStatus
  | rdSaveStatusResetInhibits (i e : Bool)
  | rdSaveStatusSetInhibits (i e : Bool)
  | rdDirectIO (ea : Word)
  | wdRegister (n : BitVec 6)
  | wdTestAndResetBit0 (n : BitVec 6)
  | wdProtectionRegister (r : BitVec 4)
  | wdLoadStatus
  | wdWait
  | wdExit
  | wdResetInhibits (i e : Bool)
  | wdSetInhibits (i e : Bool)
  | wdInterruptControl001 (g : BitVec 4)
  | wdInterruptControl010 (g : BitVec 4)
  | wdInterruptControl011 (g : BitVec 4)
  | wdInterruptControl100 (g : BitVec 4)
  | wdInterruptControl101 (g : BitVec 4)
  | wdInterruptControl110 (g : BitVec 4)
  | wdInterruptControl111 (g : BitVec 4)
  | wdWatchdogDisable
  | wdWatchdogEnable
  | wdWatchdogResetTimer
  | wdDirectIO (ea : Word)
deriving DecidableEq, Repr

/-- The row of the table that an RD function is. -/
def RdFunction.instr : RdFunction → Instr
  | .register n => .rdRegister n
  | .sio => .sio
  | .tio => .tio
  | .tdv => .tdv
  | .hio => .hio
  | .aio => .aio
  | .dataSwitches => .rdDataSwitches
  | .saveStatus => .rdSaveStatus
  | .saveStatusResetInhibits i e => .rdSaveStatusResetInhibits i e
  | .saveStatusSetInhibits i e => .rdSaveStatusSetInhibits i e
  | .directIO ea => .rdDirectIO ea

/-- The row of the table that a WD function is. -/
def WdFunction.instr : WdFunction → Instr
  | .register n => .wdRegister n
  | .testAndResetBit0 n => .wdTestAndResetBit0 n
  | .protectionRegister r => .wdProtectionRegister r
  | .loadStatus => .wdLoadStatus
  | .wait => .wdWait
  | .exit => .wdExit
  | .resetInhibits i e => .wdResetInhibits i e
  | .setInhibits i e => .wdSetInhibits i e
  | .interruptControl001 g => .wdInterruptControl001 g
  | .interruptControl010 g => .wdInterruptControl010 g
  | .interruptControl011 g => .wdInterruptControl011 g
  | .interruptControl100 g => .wdInterruptControl100 g
  | .interruptControl101 g => .wdInterruptControl101 g
  | .interruptControl110 g => .wdInterruptControl110 g
  | .interruptControl111 g => .wdInterruptControl111 g
  | .watchdogDisable => .wdWatchdogDisable
  | .watchdogEnable => .wdWatchdogEnable
  | .watchdogResetTimer => .wdWatchdogResetTimer
  | .directIO ea => .wdDirectIO ea

end Sys2Proof
end

