-- ==== Sys2Proof/Decode.lean ====
section
/-! DEFINITION. The decoder of instruction words and of RD and WD effective addresses, and the encoder, written from
30_encoding.md R91 to R100 and 43_direct_control.md R191, R200, R210, R221, R222. -/

namespace Sys2Proof

/-- Bit `i` of a word in the manual's numbering, bit 0 the most significant (00_scope.md R7). -/
def Word.bit (w : Word) (i : Nat) : Bool :=
  w.getMsbD i

/-- The field of a word from the manual's bit `i` (left end) to bit `j` (R7). -/
def Word.field (w : Word) (i j : Nat) : BitVec (j + 1 - i) :=
  w.extractLsb' (15 - j) (j + 1 - i)

/-- Two bytes as a word, byte 0 in bits 0-7 (20_memory.md R64). -/
def Word.ofBytes (hi lo : Byte) : Word :=
  hi ++ lo

/-- Byte 0 of a word, bits 0-7. -/
def Word.hi (w : Word) : Byte :=
  w.extractLsb' 8 8

/-- Byte 1 of a word, bits 8-15. -/
def Word.lo (w : Word) : Byte :=
  w.extractLsb' 0 8

/-- The general register of a three-bit field (10_state.md R21). -/
def Gpr.ofBits (b : BitVec 3) : Gpr :=
  match b.toNat with
  | 0 => .z
  | 1 => .p
  | 2 => .l
  | 3 => .t
  | 4 => .x1
  | 5 => .x2
  | 6 => .e
  | _ => .a

/-- The number of a general register (R21). -/
def Gpr.bits : Gpr → BitVec 3
  | .z => 0
  | .p => 1
  | .l => 2
  | .t => 3
  | .x1 => 4
  | .x2 => 5
  | .e => 6
  | .a => 7

/-- The address fields of a memory-reference word (30_encoding.md R91). -/
def MemRef.ofWord (w : Word) : MemRef where
  r := w.bit 4
  i := w.bit 5
  x := w.bit 6
  s := w.bit 7
  d := w.field 8 15

/-- The twelve low bits of a memory-reference word (R91). -/
def MemRef.bits (m : MemRef) : BitVec 12 :=
  BitVec.ofBool m.r ++ BitVec.ofBool m.i ++ BitVec.ofBool m.x ++ BitVec.ofBool m.s ++ m.d

/-- The operation field of the copy format (R96). -/
def CopyOp.ofBits (b : BitVec 2) : CopyOp :=
  match b.toNat with
  | 0 => .land
  | 1 => .lor
  | 2 => .lxor
  | _ => .add

/-- The code of a copy operation (R96). -/
def CopyOp.bits : CopyOp → BitVec 2
  | .land => 0
  | .lor => 1
  | .lxor => 2
  | .add => 3

/-- Bits 9-15 of a copy word: DR, IS, SR (R96). -/
def CopyOperands.ofWord (w : Word) : CopyOperands where
  dr := Gpr.ofBits (w.field 9 11)
  inv := w.bit 12
  sr := Gpr.ofBits (w.field 13 15)

/-- The seven low bits of a copy word (R96). -/
def CopyOperands.bits (f : CopyOperands) : BitVec 7 :=
  f.dr.bits ++ BitVec.ofBool f.inv ++ f.sr.bits

/-- The function an RD effective address selects, if Table 3 or the direct I/O rule gives it one
(43_direct_control.md R191, R222). -/
def decodeRd (ea : Word) : Option RdFunction :=
  if ea &&& 0xFFC0#16 = 0x0000#16 then some (.register (ea.field 10 15))
  else if ea = 0x0041#16 then some .sio
  else if ea = 0x0042#16 then some .tio
  else if ea = 0x0044#16 then some .tdv
  else if ea = 0x0048#16 then some .hio
  else if ea = 0x0050#16 then some .aio
  else if ea = 0x0080#16 then some .dataSwitches
  else if ea = 0x00C0#16 then some .saveStatus
  else if ea &&& 0xFFF3#16 = 0x00E0#16 then some (.saveStatusResetInhibits (ea.bit 12) (ea.bit 13))
  else if ea &&& 0xFFF3#16 = 0x00F0#16 then some (.saveStatusSetInhibits (ea.bit 12) (ea.bit 13))
  else if 0x2000 ≤ ea.toNat then some (.directIO ea)
  else none

/-- The function a WD effective address selects, if Table 4, the interrupt control format, the Watchdog Timer or the
direct I/O rule gives it one (43_direct_control.md R200, R210, R221, R222). -/
def decodeWd (ea : Word) : Option WdFunction :=
  if ea &&& 0xFFC0#16 = 0x0000#16 then some (.register (ea.field 10 15))
  else if ea &&& 0xFFC0#16 = 0x0040#16 then some (.testAndResetBit0 (ea.field 10 15))
  else if ea &&& 0xFFF0#16 = 0x0080#16 then some (.protectionRegister (ea.field 12 15))
  else if ea = 0x00C0#16 then some .loadStatus
  else if ea = 0x00D0#16 then some .wait
  else if ea = 0x00D8#16 then some .exit
  else if ea &&& 0xFFF3#16 = 0x00E0#16 then some (.resetInhibits (ea.bit 12) (ea.bit 13))
  else if ea &&& 0xFFF3#16 = 0x00F0#16 then some (.setInhibits (ea.bit 12) (ea.bit 13))
  else if ea &&& 0xFFF0#16 = 0x1100#16 then some (.interruptControl001 (ea.field 12 15))
  else if ea &&& 0xFFF0#16 = 0x1200#16 then some (.interruptControl010 (ea.field 12 15))
  else if ea &&& 0xFFF0#16 = 0x1300#16 then some (.interruptControl011 (ea.field 12 15))
  else if ea &&& 0xFFF0#16 = 0x1400#16 then some (.interruptControl100 (ea.field 12 15))
  else if ea &&& 0xFFF0#16 = 0x1500#16 then some (.interruptControl101 (ea.field 12 15))
  else if ea &&& 0xFFF0#16 = 0x1600#16 then some (.interruptControl110 (ea.field 12 15))
  else if ea &&& 0xFFF0#16 = 0x1700#16 then some (.interruptControl111 (ea.field 12 15))
  else if ea = 0x0100#16 then some .watchdogDisable
  else if ea = 0x0200#16 then some .watchdogEnable
  else if ea = 0x0300#16 then some .watchdogResetTimer
  else if 0x2000 ≤ ea.toNat then some (.directIO ea)
  else none

/-- An RD word. With R, I, X and S all 0 the displacement is the effective address and names the function
(30_encoding.md R97), so the word belongs to that function's row. -/
def decodeRdWord (m : MemRef) : Instr :=
  if m.r || m.i || m.x || m.s then .rd m
  else match decodeRd (m.d.setWidth 16) with
    | some f => f.instr
    | none => .rd m

/-- A WD word, by the same rule. -/
def decodeWdWord (m : MemRef) : Instr :=
  if m.r || m.i || m.x || m.s then .wd m
  else match decodeWd (m.d.setWidth 16) with
    | some f => f.instr
    | none => .wd m

/-- A conditional branch word: bits 4-6 select the condition (R95). -/
def decodeBranch (w : Word) : Instr :=
  let disp := w.field 7 15
  match (w.field 4 6).toNat with
  | 0 => .bno disp
  | 1 => .bnc disp
  | 2 => .baz disp
  | 3 => .bix disp
  | 4 => .bxno disp
  | 5 => .bxnc disp
  | 6 => .ben disp
  | _ => .ban disp

/-- A copy word: fifteen settings of Op, AC, AI and CD have a row of their own (42_copy.md R167 to R182). -/
def decodeCopy (w : Word) : Instr :=
  let f := CopyOperands.ofWord w
  match CopyOp.ofBits (w.field 4 5), w.bit 6, w.bit 7, w.bit 8 with
  | .land, false, false, false => .rand f
  | .land, false, true, false => .randi f
  | .land, true, false, false => .randc f
  | .lor, false, false, false => .ror f
  | .lor, false, true, false => .rori f
  | .lor, true, false, false => .rorc f
  | .lor, false, false, true => .rcpy f
  | .lor, false, true, true => .rcpyi f
  | .lor, true, false, true => .rcpyc f
  | .lxor, false, false, false => .reor f
  | .lxor, false, true, false => .reori f
  | .lxor, true, false, false => .reorc f
  | .add, false, false, false => .radd f
  | .add, false, true, false => .raddi f
  | .add, true, false, false => .raddc f
  | op, ac, ai, cd => .copy { op := op, ac := ac, ai := ai, cd := cd, operands := f }

/-- The instruction of a word, total over all 65,536 words (R99, R100). -/
def decodeWord (w : Word) : Instr :=
  let m := MemRef.ofWord w
  match (w.field 0 3).toNat with
  | 0 => decodeWdWord m
  | 1 => decodeRdWord m
  | 2 => .shift m
  | 3 => .mul m
  | 4 => .b m
  | 5 => .div m
  | 6 => decodeBranch w
  | 7 => decodeCopy w
  | 8 => .lda m
  | 9 => .and m
  | 10 => .add m
  | 11 => .sub m
  | 12 => .ldx m
  | 13 => .cp m
  | 14 => .sta m
  | _ => .im m

/-- Why bytes hold no instruction. Every word is an instruction (R99), so the only reason is that a word is not
there. -/
inductive DecodeRefusal
  | truncated
deriving DecidableEq, Repr

/-- The instruction at the head of a list of bytes, and the bytes after it: one word, always (R90), its left byte
first (20_memory.md R64). -/
def decodeBytes : List Byte → Except DecodeRefusal (Instr × List Byte)
  | hi :: lo :: rest => .ok (decodeWord (Word.ofBytes hi lo), rest)
  | _ => .error .truncated

/-- The instruction the decoder reads from an instruction whose bits are `w`, numbered as the opcode table numbers
them: the word's two bytes are laid out left byte first and decoded. -/
def decodeTableWord (_nbits w : Nat) : Option Instr :=
  let word : Word := BitVec.ofNat 16 w
  match decodeBytes [word.hi, word.lo] with
  | .ok (i, _) => some i
  | .error _ => none

/-- The effective address of an RD function (43_direct_control.md R191, R222). -/
def RdFunction.ea : RdFunction → Word
  | .register n => 0b0000000000#10 ++ n
  | .sio => 0x0041#16
  | .tio => 0x0042#16
  | .tdv => 0x0044#16
  | .hio => 0x0048#16
  | .aio => 0x0050#16
  | .dataSwitches => 0x0080#16
  | .saveStatus => 0x00C0#16
  | .saveStatusResetInhibits i e => 0x00E#12 ++ BitVec.ofBool i ++ BitVec.ofBool e ++ 0#2
  | .saveStatusSetInhibits i e => 0x00F#12 ++ BitVec.ofBool i ++ BitVec.ofBool e ++ 0#2
  | .directIO ea => ea

/-- The effective address of a WD function (43_direct_control.md R200, R210, R221, R222). -/
def WdFunction.ea : WdFunction → Word
  | .register n => 0b0000000000#10 ++ n
  | .testAndResetBit0 n => 0b0000000001#10 ++ n
  | .protectionRegister r => 0x008#12 ++ r
  | .loadStatus => 0x00C0#16
  | .wait => 0x00D0#16
  | .exit => 0x00D8#16
  | .resetInhibits i e => 0x00E#12 ++ BitVec.ofBool i ++ BitVec.ofBool e ++ 0#2
  | .setInhibits i e => 0x00F#12 ++ BitVec.ofBool i ++ BitVec.ofBool e ++ 0#2
  | .interruptControl001 g => 0x110#12 ++ g
  | .interruptControl010 g => 0x120#12 ++ g
  | .interruptControl011 g => 0x130#12 ++ g
  | .interruptControl100 g => 0x140#12 ++ g
  | .interruptControl101 g => 0x150#12 ++ g
  | .interruptControl110 g => 0x160#12 ++ g
  | .interruptControl111 g => 0x170#12 ++ g
  | .watchdogDisable => 0x0100#16
  | .watchdogEnable => 0x0200#16
  | .watchdogResetTimer => 0x0300#16
  | .directIO ea => ea

/-- A memory-reference word (30_encoding.md R91). -/
def encodeMemRef (op : BitVec 4) (m : MemRef) : Option Word :=
  some (op ++ m.bits)

/-- A conditional branch word (R95). -/
def encodeBranch (condition : BitVec 3) (disp : BitVec 9) : Option Word :=
  some (0x6#4 ++ condition ++ disp)

/-- A copy word (R96). -/
def encodeCopy (op : CopyOp) (ac ai cd : Bool) (f : CopyOperands) : Option Word :=
  some (0x7#4 ++ op.bits ++ BitVec.ofBool ac ++ BitVec.ofBool ai ++ BitVec.ofBool cd ++ f.bits)

/-- The RD word with R, I, X and S all 0 and the given function byte (R97). -/
def encodeRd (f : RdFunction) : Option Word :=
  some (0x10#8 ++ f.ea.lo)

/-- The WD word with R, I, X and S all 0 and the given function byte (R97). -/
def encodeWd (f : WdFunction) : Option Word :=
  some (0x00#8 ++ f.ea.lo)

/-- The word of an instruction. The rows that no pattern on the word names have none: an RD or WD function whose
effective address does not fit in a displacement, and the exit form of LDX (R100; log entry 2). -/
def encode : Instr → Option Word
  | .wd m => encodeMemRef 0x0#4 m
  | .rd m => encodeMemRef 0x1#4 m
  | .shift m => encodeMemRef 0x2#4 m
  | .mul m => encodeMemRef 0x3#4 m
  | .b m => encodeMemRef 0x4#4 m
  | .div m => encodeMemRef 0x5#4 m
  | .lda m => encodeMemRef 0x8#4 m
  | .and m => encodeMemRef 0x9#4 m
  | .add m => encodeMemRef 0xA#4 m
  | .sub m => encodeMemRef 0xB#4 m
  | .ldx m => encodeMemRef 0xC#4 m
  | .cp m => encodeMemRef 0xD#4 m
  | .sta m => encodeMemRef 0xE#4 m
  | .im m => encodeMemRef 0xF#4 m
  | .ldxExitForm _ => none
  | .bno disp => encodeBranch 0#3 disp
  | .bnc disp => encodeBranch 1#3 disp
  | .baz disp => encodeBranch 2#3 disp
  | .bix disp => encodeBranch 3#3 disp
  | .bxno disp => encodeBranch 4#3 disp
  | .bxnc disp => encodeBranch 5#3 disp
  | .ben disp => encodeBranch 6#3 disp
  | .ban disp => encodeBranch 7#3 disp
  | .copy f => encodeCopy f.op f.ac f.ai f.cd f.operands
  | .rand f => encodeCopy .land false false false f
  | .randi f => encodeCopy .land false true false f
  | .randc f => encodeCopy .land true false false f
  | .ror f => encodeCopy .lor false false false f
  | .rcpy f => encodeCopy .lor false false true f
  | .rori f => encodeCopy .lor false true false f
  | .rcpyi f => encodeCopy .lor false true true f
  | .rorc f => encodeCopy .lor true false false f
  | .rcpyc f => encodeCopy .lor true false true f
  | .reor f => encodeCopy .lxor false false false f
  | .reori f => encodeCopy .lxor false true false f
  | .reorc f => encodeCopy .lxor true false false f
  | .radd f => encodeCopy .add false false false f
  | .raddi f => encodeCopy .add false true false f
  | .raddc f => encodeCopy .add true false false f
  | .sio => encodeRd .sio
  | .tio => encodeRd .tio
  | .tdv => encodeRd .tdv
  | .hio => encodeRd .hio
  | .aio => encodeRd .aio
  | .rdRegister n => encodeRd (.register n)
  | .rdDataSwitches => encodeRd .dataSwitches
  | .rdSaveStatus => encodeRd .saveStatus
  | .rdSaveStatusResetInhibits i e => encodeRd (.saveStatusResetInhibits i e)
  | .rdSaveStatusSetInhibits i e => encodeRd (.saveStatusSetInhibits i e)
  | .rdDirectIO _ => none
  | .wdRegister n => encodeWd (.register n)
  | .wdTestAndResetBit0 n => encodeWd (.testAndResetBit0 n)
  | .wdProtectionRegister r => encodeWd (.protectionRegister r)
  | .wdLoadStatus => encodeWd .loadStatus
  | .wdWait => encodeWd .wait
  | .wdExit => encodeWd .exit
  | .wdResetInhibits i e => encodeWd (.resetInhibits i e)
  | .wdSetInhibits i e => encodeWd (.setInhibits i e)
  | .wdInterruptControl001 _ => none
  | .wdInterruptControl010 _ => none
  | .wdInterruptControl011 _ => none
  | .wdInterruptControl100 _ => none
  | .wdInterruptControl101 _ => none
  | .wdInterruptControl110 _ => none
  | .wdInterruptControl111 _ => none
  | .wdWatchdogDisable => none
  | .wdWatchdogEnable => none
  | .wdWatchdogResetTimer => none
  | .wdDirectIO _ => none

end Sys2Proof
end

