-- ==== Sys2Proof/Config.lean ====
section
/-! DEFINITION. What an installation fixes (00_scope.md R5, 92_eei_decisions.md "Parameters left open") and the free
values. -/

namespace Sys2Proof

/-- A group of the priority chain that `GroupOrder` places (60_exceptions.md R285): the input/output group, or
external group 5 + `g`. -/
inductive Group
  | io
  | ext (g : Fin 8)
deriving DecidableEq, Repr

/-- Where DIV takes C from when the remainder is zero (parameter `DivZeroRemCarry`, 90_conflicts.md C8). -/
inductive RemainderCarry
  /-- bit 0 of the stored remainder (the default) -/
  | remainderBit
  /-- the sign of the dividend -/
  | dividendSign
deriving DecidableEq, Repr

/-- The layout of an IOCD's second word (44_io.md R233): the places of the data chaining flag and of the interrupt
flag in the manual's numbering, and the width of the byte count, which stands in the low-order end. Bit 0 is the
error flag E. PRESUMED defaults, as the spec's D7 (log entry 5). -/
structure IocdLayout where
  dcBit : Fin 16 := 1
  iBit : Fin 16 := 2
  countWidth : Fin 17 := 13
deriving DecidableEq, Repr

/-- One configuration of the family (R5). A machine keeps its configuration: no step changes it. -/
structure Config where
  /-- `MemWords` is 4096 times `memBanks + 1`. -/
  memBanks : Fin 16
  /-- Integral memory, in modules of 4096 words from address 0: the words no other memory port reaches (20_memory.md
  R79). -/
  integralBanks : Fin 5
  hasMulDiv : Bool
  hasProtection : Bool
  hasMemParityInt : Bool
  hasPowerFailSafe : Bool
  hasCounters : Bool
  hasIntegralInts : Bool
  /-- For external group 5 + g, how many of its sixteen levels are installed (0: the group is absent). -/
  extLevels : Vector (Fin 17) 8
  /-- `GroupOrder`: the groups after the override and counter group, highest priority first. -/
  groupOrder : List Group
  /-- `IOChannels` is 4 times `ioBlocks + 1`. -/
  ioBlocks : Fin 5
  hasDio : Bool
  hasWatchdog : Bool
  /-- The integral or external level, numbered by its location less X'FC', that the customer wires to the Watchdog
  Timer's hangup signal, if any (60_exceptions.md R315, R321; log entry 38). -/
  hangupLevel : Option (Fin 148)
  /-- The level wired to the Watchdog Timer's signal that a direct I/O instruction got no response, if any (R321; log
  entry 38). -/
  dioFailureLevel : Option (Fin 148)
  divZeroRemCarry : RemainderCarry
  iocd : IocdLayout
deriving DecidableEq, Repr

/-- The groups in Table 2's own order, the default `GroupOrder` (92_eei_decisions.md D19). -/
def tableGroupOrder : List Group :=
  [.io, .ext 0, .ext 1, .ext 2, .ext 3, .ext 4, .ext 5, .ext 6, .ext 7]

/-- What the spec asks of a configuration beyond its types: `GroupOrder` names every group once, the Watchdog Timer
needs the DIO feature (00_scope.md R5), and integral memory is part of memory (20_memory.md R79). -/
def Config.wf (cfg : Config) : Bool :=
  cfg.groupOrder.Nodup && tableGroupOrder.all (· ∈ cfg.groupOrder) && (!cfg.hasWatchdog || cfg.hasDio) &&
    decide (cfg.integralBanks.val ≤ cfg.memBanks.val + 1)

/-- The configuration `State.reset` stands for: every option installed, full memory, nothing wired to the Watchdog
Timer's signals (DESIGN CHOICE, log entry 1). -/
def Config.full : Config where
  memBanks := 15
  integralBanks := 4
  hasMulDiv := true
  hasProtection := true
  hasMemParityInt := true
  hasPowerFailSafe := true
  hasCounters := true
  hasIntegralInts := true
  extLevels := Vector.replicate 8 16
  groupOrder := tableGroupOrder
  ioBlocks := 4
  hasDio := true
  hasWatchdog := true
  hangupLevel := none
  dioFailureLevel := none
  divZeroRemCarry := .remainderBit
  iocd := {}

/-- A free word: nothing is known of it (93_implementation_defined.md U11; 91_not_in_source.md N25). -/
opaque freeWord : Nat → Word

/-- A free bit: nothing is known of it (93_implementation_defined.md U11; 91_not_in_source.md N25). -/
opaque freeBit : Nat → Bool

end Sys2Proof
end

