-- ==== Sys2Proof/Machine/Levels.lean ====
section
/-! DEFINITION. The interrupt levels: Table 2 (60_exceptions.md R271, 43_direct_control.md R219), which levels a
configuration installs (R276), the priority chain (R285) and the levels after reset (70_reset_and_hazards.md R340). -/

namespace Sys2Proof.Machine

open Sys2Proof

/-- An interrupt level, numbered by its dedicated location: level `n` has location X'FC' + n, X'FC' to X'18F'
(60_exceptions.md R271). So counter 4 to counter 1 are 0 to 3, the override levels X'100' to X'105' are 4 to 9, the
input/output group is 10 to 19, and external group 5 + g begins at 20 + 16 g. -/
abbrev Level := Fin 148

/-- The four states of a level (60_exceptions.md R278). -/
inductive LevelState
  | disarmed | armed | waiting | active
deriving DecidableEq, Repr

/-- The three flip-flops of a level: two for its state, one that enables it (10_state.md R36). -/
structure LevelCell where
  state : LevelState
  enabled : Bool
deriving DecidableEq, Repr

/-- The power on level, X'100'. -/
abbrev powerOnLevel : Level := 4
/-- The power off level, X'101'. -/
abbrev powerOffLevel : Level := 5
/-- The memory parity error level, X'102'. -/
abbrev memoryParityLevel : Level := 6
/-- The protection violation level, X'103'. -/
abbrev protectionLevel : Level := 7
/-- The multiply exception level, X'104'. -/
abbrev multiplyLevel : Level := 8
/-- The divide exception level, X'105'. -/
abbrev divideLevel : Level := 9
/-- The input/output level, X'106'. -/
abbrev ioLevel : Level := 10
/-- The control panel level, X'107'. -/
abbrev panelLevel : Level := 11

/-- The dedicated memory location of a level (R271). -/
def levelLocation (level : Level) : Word :=
  BitVec.ofNat 16 (0xFC + level.val)

/-- The counter levels X'FC' to X'FF' (R272). -/
def isCounter (level : Level) : Bool :=
  level.val < 4

/-- The override group X'100' to X'105' (R273). -/
def isOverride (level : Level) : Bool :=
  4 ≤ level.val && level.val < 10

/-- The input/output group X'106' to X'10F' (R274). -/
def isIoGroup (level : Level) : Bool :=
  10 ≤ level.val && level.val < 20

/-- The external groups X'110' to X'18F' (R275). -/
def isExternal (level : Level) : Bool :=
  20 ≤ level.val

/-- The counter-equals-zero level of a counter level: X'FC' + k has X'108' + k (R292). -/
def zeroLevel (k : Fin 4) : Level :=
  ⟨12 + k.val, by omega⟩

/-- The level of a counter: k = 0 is counter 4, k = 3 is counter 1 (R271). -/
def counterLevel (k : Fin 4) : Level :=
  ⟨k.val, by omega⟩

/-- The override levels a configuration installs (R276). -/
def overrideInstalled (cfg : Config) (level : Level) : Bool :=
  match level.val with
  | 4 => cfg.hasPowerFailSafe
  | 5 => cfg.hasPowerFailSafe
  | 6 => cfg.hasMemParityInt
  | 7 => cfg.hasProtection
  | 8 => !cfg.hasMulDiv
  | 9 => !cfg.hasMulDiv
  | _ => false

/-- How many levels of external group 5 + g are installed (00_scope.md R5). -/
def externalLevels (cfg : Config) (g : Nat) : Nat :=
  if h : g < 8 then (cfg.extLevels[g]'h).val else 0

/-- Which levels exist (R276). Of an external group with fewer than sixteen levels the first ones exist (DESIGN CHOICE,
log entry 44). -/
def installed (cfg : Config) (level : Level) : Bool :=
  if isCounter level then cfg.hasCounters
  else if isOverride level then overrideInstalled cfg level
  else if level.val < 12 then true
  else if level.val < 16 then cfg.hasCounters
  else if level.val < 20 then cfg.hasIntegralInts
  else (level.val - 20) % 16 < externalLevels cfg ((level.val - 20) / 16)

/-- The levels of a group that `GroupOrder` places, in ascending location order (R285). -/
def groupLevels : Group → List Level
  | .io => [10, 11, 12, 13, 14, 15, 16, 17, 18, 19]
  | .ext g => (List.finRange 16).map fun i => ⟨20 + 16 * g.val + i.val, by omega⟩

/-- The priority chain, highest first: power on, power off, the counters, the other override levels, then the groups
of `GroupOrder`; levels that are not installed are skipped (R276, R285). -/
def chain (cfg : Config) : List Level :=
  ([4, 5, 0, 1, 2, 3, 6, 7, 8, 9] ++ cfg.groupOrder.flatMap groupLevels).filter (installed cfg)

/-- The group code and the accumulator bit that select a level in interrupt control mode, Table 2's last columns
(43_direct_control.md R219); an override level has none. -/
def levelSelector (level : Level) : Option (BitVec 4 × Nat) :=
  if isCounter level then some (0, level.val)
  else if isOverride level then none
  else if isIoGroup level then some (0, level.val - 4)
  else some (BitVec.ofNat 4 (5 + (level.val - 20) / 16), (level.val - 20) % 16)

/-- Every level as INITIALIZE RESET leaves it: the installed override levels armed ("inactive") and enabled, the
others disarmed and disabled (70_reset_and_hazards.md R340). A level that is not installed has no state; its cell is
held disarmed. -/
def resetLevels (cfg : Config) : Vector LevelCell 148 :=
  Vector.ofFn fun level : Level =>
    if overrideInstalled cfg level then ⟨.armed, true⟩ else ⟨.disarmed, false⟩

end Sys2Proof.Machine
end

