-- ==== Sys2Proof/Machine/State.lean ====
section
/-! DEFINITION. The state of the machine as plain data: the registers, indicators and internal flip-flops of the CPU,
the interrupt levels, memory, the operator's panel, the devices of the byte I/O system, the direct I/O connector and
the Watchdog Timer (10_state.md; 44_io.md R230; 60_exceptions.md R321, R323), the inputs of the environment, and the
state after reset (70_reset_and_hazards.md R340, 10_state.md R55). -/

namespace Sys2Proof.Machine

open Sys2Proof

/-- Core memory as (byte address, byte) pairs in canonical form: addresses strictly rising, no entry zero. Byte
address 2w is bits 0-7 of the word at word address w, byte address 2w + 1 its bits 8-15 (20_memory.md R60, R64;
log entry 3). An unlisted byte reads as zero (DESIGN CHOICE, log entry 4). -/
abbrev Memory := List Host.Cell

/-- The key-operated switch (60_exceptions.md R323). -/
inductive KeySwitch
  | unlocked | protectOn | protectOff
deriving DecidableEq, Repr

/-- The latching positions of the COMPUTE switch (60_exceptions.md R323). -/
inductive ComputeSwitch
  | idle | run
deriving DecidableEq, Repr

/-- What the two PARITY ERROR switches, or the locked key, ask of the CPU on a memory parity error
(60_exceptions.md R312). -/
inductive ParityMode
  | ignore | halt | interrupt
deriving DecidableEq, Repr

/-- The registers the SELECT switch shows (60_exceptions.md R323). -/
inductive PanelRegister
  | e | a | s | d | p | l | t | x1 | x2
deriving DecidableEq, Repr

/-- The positions of the panel switches that keep a position (10_state.md R50). -/
structure Panel where
  /-- the POWER switch (R50) -/
  power : Bool
  key : KeySwitch
  compute : ComputeSwitch
  /-- PROTECT: ON -/
  protect : Bool
  /-- left PARITY ERROR switch: HALT (otherwise INTERRUPT) -/
  parityHalt : Bool
  /-- right PARITY ERROR switch: IGNORE (otherwise NORMAL) -/
  parityIgnore : Bool
  /-- PROG ADD: HOLD (otherwise NORMAL) -/
  progAddHold : Bool
  /-- the sixteen DATA switches -/
  data : Word
  select : PanelRegister
deriving DecidableEq, Repr

/-- One operator action on the panel (60_exceptions.md R277, R323; 70_reset_and_hazards.md R340, R343). -/
inductive PanelAction
  | power (on : Bool)
  | key (k : KeySwitch)
  | compute (c : ComputeSwitch)
  | step
  | protect (on : Bool)
  | parityHalt (halt : Bool)
  | parityIgnore (ignore : Bool)
  | progAddHold (hold : Bool)
  | data (w : Word)
  | select (r : PanelRegister)
  | registerClear
  | registerEnter
  | memoryStore
  | memoryFetch
  | incrementAddress
  | interrupt
  | reset
  | load
deriving DecidableEq, Repr

/-- The condition of a device or of its controller, status bits 1-2 and 5-6 (44_io.md R247). -/
inductive Condition
  | ready | notOperational | unavailable | busy
deriving DecidableEq, Repr

/-- How far the operation of a device has come (44_io.md R234 to R238): none in progress; started and wanting its
order byte; transferring under an order; told that the count is done and not yet ended. -/
inductive Phase
  | quiet
  | wantsOrder
  | underOrder (order : Byte)
  | countDone
deriving DecidableEq, Repr

/-- A device of the byte I/O system as the CPU sees it (44_io.md R230, R240, R247). The condition, the mode, the
unusual-end bit and the pending interrupt are Table 5's; `statusBit7` is its unassigned bit; the TDV and AIO answers
are device-defined, so the device carries them; `lastByte` is the last byte a channel sent it. -/
structure Device where
  number : Byte
  condition : Condition
  controller : Condition
  automatic : Bool
  unusualEnd : Bool
  statusBit7 : Bool
  pending : Bool
  phase : Phase
  interpretsStop : Bool
  tdvStatus : Byte
  tdvCondition : Bool
  aioStatus : Byte
  aioUnusual : Bool
  lastByte : Byte
deriving DecidableEq, Repr

/-- The five flags of an operational status byte (44_io.md R237). -/
structure OperationalStatus where
  te : Bool
  il : Bool
  cm : Bool
  ce : Bool
  ue : Bool
deriving DecidableEq, Repr

/-- What RD or WD holds on the direct I/O connector (43_direct_control.md R220, R222). -/
inductive DioCommand
  /-- RD presents the effective address -/
  | read (ea : Word)
  /-- WD presents the effective address and the accumulator -/
  | write (ea data : Word)
deriving DecidableEq, Repr

/-- A device's acknowledgment on the direct I/O connector: its data and the two status bits for O and C (R222). -/
structure DioReply where
  data : Word
  o : Bool
  c : Bool
deriving DecidableEq, Repr

/-- An event of the environment, which falls between two instruction steps (60_exceptions.md R294;
92_eei_decisions.md "Environment functions and events"). -/
inductive Event
  /-- a clock pulse at counter level X'FC' + k -/
  | clockPulse (k : Fin 4)
  /-- a signal on an integral or external level -/
  | externalSignal (level : Level)
  /-- the supply voltage falls below a safe limit -/
  | powerOff
  /-- the supply fails -/
  | powerLost
  /-- power returns to safe limits -/
  | powerOn
  /-- reading the word at `a` gives a parity error until the next boundary -/
  | parityFault (a : Word)
  /-- another memory port stores a word of external memory -/
  | portWrite (a v : Word)
  /-- device `n` requests service of one byte; for an input order it supplies `b`, received with bad parity if `bad` -/
  | service (n : Byte) (b : Byte) (bad : Bool)
  /-- device `n` signals channel end or unusual end with its operational status byte -/
  | channelEnd (n : Byte) (status : OperationalStatus)
  /-- device `n` raises a device interrupt on its own account (device end and the like) -/
  | deviceInterrupt (n : Byte)
  /-- the device with the number of `d` takes the mode, the device-defined answers and a condition other than busy of `d` -/
  | deviceChange (d : Device)
  /-- an acknowledgment arrives on the direct I/O connector -/
  | dioReply (r : DioReply)
  /-- the Watchdog Timer gives its substitute acknowledge -/
  | dioTimeout
  /-- the Watchdog Timer's interval runs out -/
  | watchdogTimeout
  | panel (action : PanelAction)
deriving DecidableEq, Repr

/-- The machine's state. Fields with a register's name are that register. -/
structure State where
  /-- the configuration, which no step changes -/
  cfg : Config
  /-- program address, general register 1 -/
  p : Word
  /-- link address, general register 2 -/
  l : Word
  /-- temporary storage, general register 3 -/
  t : Word
  /-- index 1, general register 4 -/
  x1 : Word
  /-- index 2, general register 5 -/
  x2 : Word
  /-- extended accumulator, general register 6 -/
  e : Word
  /-- accumulator, general register 7 -/
  a : Word
  /-- internal register H: the address of the instruction being executed (10_state.md R33) -/
  regH : Word
  /-- internal register D: the instruction being executed (R33) -/
  regD : Word
  /-- internal register S: the memory address register of the panel (R33) -/
  regS : Word
  /-- the I/O channel registers, register 8 + k at index k (R24) -/
  ch : Vector Word 40
  /-- the protection registers (R25) -/
  pr : Vector Word 16
  /-- protected program indicator, PSD bit 8 (R27) -/
  pp : Bool
  /-- internal interrupt inhibit, PSD bit 10 (R28) -/
  ii : Bool
  /-- external interrupt inhibit, PSD bit 11 (R29) -/
  ei : Bool
  /-- overflow indicator, PSD bit 14 (R30) -/
  o : Bool
  /-- carry indicator, PSD bit 15 (R31) -/
  c : Bool
  /-- wait flip-flop (R34) -/
  wff : Bool
  /-- exit condition, set by WD X'00D8' (R35) -/
  exitCondition : Bool
  /-- first-instruction hold (R37; 60_exceptions.md R289) -/
  hold : Bool
  /-- load condition indicator (R37; 70_reset_and_hazards.md R343) -/
  loadCondition : Bool
  /-- memory parity halt (60_exceptions.md R312) -/
  parityHalt : Bool
  /-- PARITY ERROR indicator (R312) -/
  parityIndicator : Bool
  /-- the address displayed in a memory parity halt (R312) -/
  parityAddress : Word
  /-- the flip-flops of the interrupt levels (10_state.md R36) -/
  levels : Vector LevelCell 148
  /-- core memory (10_state.md R38) -/
  mem : Memory
  /-- the panel switches (10_state.md R50) -/
  panel : Panel
  /-- COMPUTE has gone to RUN and the instruction in D is still to be executed (70_reset_and_hazards.md R345) -/
  started : Bool
  /-- the power supply delivers (60_exceptions.md R313, R324) -/
  supply : Bool
  /-- power has returned with COMPUTE in RUN and the CPU does not execute by itself (91_not_in_source.md N25; log entry
  39) -/
  dormant : Bool
  /-- the installed devices of the byte I/O system, highest AIO priority first (44_io.md R230, R246) -/
  devices : List Device
  /-- the command held on the direct I/O connector, not yet acknowledged (43_direct_control.md R222) -/
  dio : Option DioCommand
  /-- the last command presented on the direct I/O connector (R222) -/
  dioOut : Option DioCommand
  /-- acknowledgments of the environment not yet taken (R222) -/
  dioReplies : List DioReply
  /-- the Watchdog Timer is enabled (60_exceptions.md R321) -/
  wdEnabled : Bool
  /-- the Watchdog Timer's system hangup signal (R321) -/
  wdHangup : Bool
  /-- a direct I/O instruction got no response, and the instruction after it has not completed (R321) -/
  dioFailure : Bool
  /-- the words whose reading gives a parity error until the next boundary (20_memory.md R66) -/
  parityFaults : List Word
  /-- the model's own: what the environment does at each coming boundary (log entry 6) -/
  env : List (List Event)
  /-- the model's own: how many free values have been taken (log entry 7) -/
  free : Nat
deriving DecidableEq, Repr

/-- Why the machine stops outside an instruction. -/
inductive Fault
  /-- A channel's data chaining loaded an IOCD whose byte count is zero (44_io.md R235). Raised by the service of a
  channel; 93_implementation_defined.md U14: not described by the manual, treatment refuse. Safe: the machine stops. -/
  | chainedCountZero
deriving DecidableEq, Repr

/-- Why an instruction has no meaning. Each is safe: the machine stops where the hardware may go on. -/
inductive Refusal
  /-- Raised by no instruction: the arm of an instruction that has no meaning yet. -/
  | notModelled (mnemonic : String)
  /-- Raised by RD and WD in internal mode with a function byte that Table 3 or Table 4 does not list
  (43_direct_control.md R198, R209; 93_implementation_defined.md U1). Safe. -/
  | undefinedFunction
  /-- Raised by WD in interrupt control mode with code 000 (43_direct_control.md R218; U2). Safe. -/
  | undefinedInterruptCode
  /-- Raised by RD and WD with a must-be-zero field of the effective address that is not zero
  (43_direct_control.md R198, R209, R210; U3). Safe. -/
  | mustBeZero
  /-- Raised by RD in interrupt control mode, which is "WD only" (43_direct_control.md R190, R198; U4). Safe. -/
  | interruptModeRead
  /-- Raised by RD and WD in the external modes on a machine without the DIO feature (43_direct_control.md R222;
  U5). Safe. -/
  | noDirectIo
  /-- Raised by the register functions of RD and WD with a number that names no installed register, and by SIO,
  TIO, TDV and HIO for a device whose channel has no registers (43_direct_control.md R192, R201; 44_io.md R232;
  U7). Safe. -/
  | uninstalledRegister
  /-- Raised by any instruction but LDX next after WD X'00D8' (40_memory_reference.md R124; U8). Safe. -/
  | exitPairBroken
deriving DecidableEq, Repr

/-- What a step or an instruction comes to. -/
abbrev Result := Host.Outcome State Fault Refusal

/-- The panel of a machine that runs a program: POWER on, key UNLOCKED, COMPUTE in RUN, PROG ADD NORMAL (10_state.md
R50), PROTECT OFF (70_reset_and_hazards.md R344 step 1), PARITY ERROR in IGNORE (DESIGN CHOICE, log entry 8). -/
def resetPanel : Panel where
  power := true
  key := .unlocked
  compute := .run
  protect := false
  parityHalt := false
  parityIgnore := true
  progAddHold := false
  data := 0
  select := .a

/-- The machine of configuration `cfg` right after INITIALIZE RESET (10_state.md R55, 70_reset_and_hazards.md R340,
R341). Registers and indicators without a value of the spec are zero (DESIGN CHOICE, log entry 9). -/
def State.resetOf (cfg : Config) : State where
  cfg := cfg
  p := 0
  l := 0
  t := 0
  x1 := 0
  x2 := 0
  e := 0
  a := 0
  regH := 0
  regD := 0
  regS := 0
  ch := Vector.replicate 40 0
  pr := Vector.replicate 16 0
  pp := cfg.hasProtection
  ii := false
  ei := false
  o := false
  c := false
  wff := false
  exitCondition := false
  hold := false
  loadCondition := false
  parityHalt := false
  parityIndicator := false
  parityAddress := 0
  levels := resetLevels cfg
  mem := []
  panel := resetPanel
  started := false
  supply := true
  dormant := false
  devices := []
  dio := none
  dioOut := none
  dioReplies := []
  wdEnabled := false
  wdHangup := false
  dioFailure := false
  parityFaults := []
  env := []
  free := 0

/-- The machine right after reset, of the configuration with every option (log entry 1). -/
def State.reset : State :=
  State.resetOf Config.full

end Sys2Proof.Machine
end

