-- ==== Sys2Proof/Machine/Ops.lean ====
section
/-! DEFINITION. The named operations over memory, registers and interrupt levels; the protection checks; taking an
interrupt (the machine's only exception mechanism, 60_exceptions.md R270) and returning from one; the frame every
instruction's meaning stands in (40_memory_reference.md R120). -/

namespace Sys2Proof.Machine

open Sys2Proof

/-! ### Memory -/

/-- The byte at a byte address; an unlisted byte reads as zero (log entry 4). -/
def Memory.byteAt : Memory → Nat → Byte
  | [], _ => 0
  | (k, v) :: rest, n => if n = k then v else Memory.byteAt rest n

/-- Store one byte, keeping the canonical form: storing zero removes the entry. -/
def Memory.setByte : Memory → Nat → Byte → Memory
  | [], n, v => if v = 0 then [] else [(n, v)]
  | (k, w) :: rest, n, v =>
    if n < k then (if v = 0 then (k, w) :: rest else (n, v) :: (k, w) :: rest)
    else if n = k then (if v = 0 then rest else (k, v) :: rest)
    else (k, w) :: Memory.setByte rest n v

/-- The canonical form: byte addresses strictly rising and below 131,072, no entry zero. -/
def Memory.wf (m : Memory) : Bool :=
  decide (m.Pairwise fun x y => x.1 < y.1) && m.all fun cell => cell.2 != 0 && decide (cell.1 < 0x20000)

/-- `MemWords` (00_scope.md R5). -/
def memWords (cfg : Config) : Nat :=
  4096 * (cfg.memBanks.val + 1)

/-- Does a memory bank recognise the word address (20_memory.md R63)? -/
def State.hasLocation (s : State) (addr : Word) : Bool :=
  addr.toNat < memWords s.cfg

/-- The word at an address, byte 0 in bits 0-7; zeros from a nonexistent location (20_memory.md R63, R64). -/
def State.readWord (s : State) (addr : Word) : Word :=
  if s.hasLocation addr then Word.ofBytes (s.mem.byteAt (2 * addr.toNat)) (s.mem.byteAt (2 * addr.toNat + 1)) else 0

/-- Store a word; at a nonexistent location nothing happens (20_memory.md R63). -/
def State.writeWord (s : State) (addr v : Word) : State :=
  { s with
    mem := if s.hasLocation addr then (s.mem.setByte (2 * addr.toNat) v.hi).setByte (2 * addr.toNat + 1) v.lo else s.mem }

/-- The partial write of a channel: one byte of a word, byte 1 if `right` (20_memory.md R68). -/
def State.writeHalf (s : State) (addr : Word) (right : Bool) (v : Byte) : State :=
  { s with mem := if s.hasLocation addr then s.mem.setByte (2 * addr.toNat + right.toNat) v else s.mem }

/-- Integral memory, which no port but the CPU's reaches (20_memory.md R79). -/
def State.integral (s : State) (addr : Word) : Bool :=
  addr.toNat < 4096 * s.cfg.integralBanks.val

/-! ### Registers -/

/-- A general register as an operand; register 0 reads as zero (10_state.md R21). -/
def State.gpr (s : State) : Gpr → Word
  | .z => 0
  | .p => s.p
  | .l => s.l
  | .t => s.t
  | .x1 => s.x1
  | .x2 => s.x2
  | .e => s.e
  | .a => s.a

/-- Load a general register; register 0 keeps nothing (10_state.md R21). -/
def State.setGpr (s : State) (r : Gpr) (v : Word) : State :=
  match r with
  | .z => s
  | .p => { s with p := v }
  | .l => { s with l := v }
  | .t => { s with t := v }
  | .x1 => { s with x1 := v }
  | .x2 => { s with x2 := v }
  | .e => { s with e := v }
  | .a => { s with a := v }

/-- The number of byte I/O channels, `IOChannels` (00_scope.md R5). -/
def ioChannels (cfg : Config) : Nat :=
  4 * (cfg.ioBlocks.val + 1)

/-- I/O channel register 8 + k (10_state.md R24). -/
def State.channel (s : State) (k : Nat) : Word :=
  if h : k < 40 then s.ch[k]'h else 0

/-- Load I/O channel register 8 + k. -/
def State.setChannel (s : State) (k : Nat) (v : Word) : State :=
  if h : k < 40 then { s with ch := s.ch.set k v h } else s

/-- Register `n` of the register block, if it is installed: 0 to 7 general, from 8 on the I/O channel registers
(10_state.md R20, R24; 93_implementation_defined.md U7). -/
def State.register (s : State) (n : BitVec 6) : Option Word :=
  if n.toNat < 8 then some (s.gpr (Gpr.ofBits (n.extractLsb' 0 3)))
  else if n.toNat < 8 + 2 * ioChannels s.cfg then some (s.channel (n.toNat - 8))
  else none

/-- Load register `n` of the register block, if it is installed. -/
def State.setRegister (s : State) (n : BitVec 6) (v : Word) : Option State :=
  if n.toNat < 8 then some (s.setGpr (Gpr.ofBits (n.extractLsb' 0 3)) v)
  else if n.toNat < 8 + 2 * ioChannels s.cfg then some (s.setChannel (n.toNat - 8) v)
  else none

/-! ### The panel as the CPU reads it -/

/-- The machine has power: the POWER switch is on and the supply delivers (60_exceptions.md R324). -/
def State.powered (s : State) : Bool :=
  s.panel.power && s.supply

/-- COMPUTE acts as RUN: it stands there, or the key is locked (10_state.md R50). -/
def State.computeRuns (s : State) : Bool :=
  s.panel.key != .unlocked || s.panel.compute == .run

/-- The CPU runs: it has power, COMPUTE acts as RUN, and it has not stayed still at a return of power (60_exceptions.md
R324; log entry 39). -/
def State.running (s : State) : Bool :=
  s.powered && s.computeRuns && !s.dormant

/-- COMPUTE acts as IDLE on a machine that has power (R324). -/
def State.idle (s : State) : Bool :=
  s.powered && !s.computeRuns

/-- The two PARITY ERROR switches; a locked key acts as INTERRUPT/NORMAL (10_state.md R50, 60_exceptions.md R312). -/
def State.parityMode (s : State) : ParityMode :=
  if s.panel.key != .unlocked then .interrupt
  else if s.panel.parityIgnore then .ignore
  else if s.panel.parityHalt then .halt
  else .interrupt

/-- The protection system is operative (60_exceptions.md R300). -/
def State.operative (s : State) : Bool :=
  s.cfg.hasProtection &&
    match s.panel.key with
    | .unlocked => s.panel.protect
    | .protectOn => true
    | .protectOff => false

/-- PROG ADD in HOLD keeps P from being incremented; a locked key acts as NORMAL (60_exceptions.md R323). -/
def State.holdsProgramAddress (s : State) : Bool :=
  s.panel.key == .unlocked && s.panel.progAddHold

/-! ### Interrupt levels -/

/-- The flip-flops of a level. -/
def State.level (s : State) (level : Level) : LevelCell :=
  s.levels[level.val]

/-- Set the flip-flops of a level. -/
def State.setLevel (s : State) (level : Level) (cell : LevelCell) : State :=
  { s with levels := s.levels.set level.val cell }

/-- Put a level in a state, leaving its enable flip-flop. -/
def State.setLevelState (s : State) (level : Level) (st : LevelState) : State :=
  s.setLevel level { s.level level with state := st }

/-- One interrupt signal on a level, from any source: an armed level advances to waiting; a disarmed level keeps no
record, a waiting or active one is not changed (60_exceptions.md R281). -/
def State.trigger (s : State) (level : Level) : State :=
  if installed s.cfg level && (s.level level).state == .armed then s.setLevelState level .waiting else s

/-- The group inhibit of a level is on (60_exceptions.md R280, R282 to R284). -/
def State.inhibited (s : State) (level : Level) : Bool :=
  (isIoGroup level && s.ii) || (isExternal level && s.ei)

/-- Waiting, enabled, not inhibited (60_exceptions.md R280). -/
def State.eligible (s : State) (level : Level) : Bool :=
  (s.level level).state == .waiting && (s.level level).enabled && !s.inhibited level

/-- The first level of the chain that is active or eligible: the one all lower levels are blocked by
(60_exceptions.md R280, R294). -/
def State.claimant (s : State) : Option Level :=
  (chain s.cfg).find? fun level => (s.level level).state == .active || s.eligible level

/-- The highest-priority active level (40_memory_reference.md R124). -/
def State.highestActive (s : State) : Option Level :=
  (chain s.cfg).find? fun level => (s.level level).state == .active

/-! ### The program status -/

/-- The first word of the program status doubleword: PP in bit 8, II in 10, EI in 11, O in 14, C in 15, zeros
elsewhere (10_state.md R26). The stored PP is the indicator as the last fetch left it, also when PROTECT has been moved to
OFF since: it becomes 0 at the next fetch (R300; DEDUCED, log entry 10). -/
def State.statusWord (s : State) : Word :=
  0#8 ++ BitVec.ofBool s.pp ++ 0#1 ++ BitVec.ofBool s.ii ++ BitVec.ofBool s.ei ++ 0#2 ++ BitVec.ofBool s.o
    ++ BitVec.ofBool s.c

/-- Load the five indicators from bits 8, 10, 11, 14, 15 of a word; the other bits are ignored. PP is held 0 while the
protection system is not operative (43_direct_control.md R204, 60_exceptions.md R300, 92_eei_decisions.md D28;
log entry 10). -/
def State.loadStatus (s : State) (w : Word) : State :=
  { s with
    pp := s.operative && w.bit 8
    ii := w.bit 10
    ei := w.bit 11
    o := w.bit 14
    c := w.bit 15 }

/-! ### Taking an interrupt and returning from one -/

/-- The entry sequence of a normal level: the level becomes active, the wait flip-flop is reset, the PSD is stored at
the address `Q` its dedicated location holds, and execution goes on at `Q + 2` under the first-instruction hold
(60_exceptions.md R287). The accesses are neither protection-checked nor parity-checked (20_memory.md R71, N12;
log entry 11). -/
def State.enter (s : State) (level : Level) : State :=
  let q := s.readWord (levelLocation level)
  let s1 := s.setLevelState level .active
  let s2 := (s1.writeWord q s.statusWord).writeWord (q + 1) s.p
  { s2 with wff := false, p := q + 2, hold := true }

/-- The return: the doubleword `w0`, `w1` goes to the indicators and P, the highest-priority active level is armed,
and the exit condition is reset; with no active level that step does nothing (40_memory_reference.md R124,
60_exceptions.md R290, 92_eei_decisions.md D16). -/
def State.leave (s : State) (w0 w1 : Word) : State :=
  let s1 := { s.loadStatus w0 with p := w1, exitCondition := false }
  match s.highestActive with
  | some level => s1.setLevelState level .armed
  | none => s1

/-- Counter processing: the level is active only for the increment of the word in its location and is then armed; a
result of zero triggers the counter-equals-zero level (60_exceptions.md R292). -/
def State.count (s : State) (k : Fin 4) : State :=
  let cell := levelLocation (counterLevel k)
  let v := s.readWord cell + 1
  let s1 := { (s.writeWord cell v).setLevelState (counterLevel k) .armed with wff := false }
  if v = 0 then s1.trigger (zeroLevel k) else s1

/-- The recognition loop: eligible counters are counted in turn, then at most one normal level is entered. `fuel`
bounds the turns; there are four counters, and none becomes waiting in the loop (60_exceptions.md R294). -/
def recognizeLoop : Nat → State → State
  | 0, s => s
  | fuel + 1, s =>
    match s.claimant with
    | none => s
    | some level =>
      if (s.level level).state = .active then s
      else if h : level.val < 4 then recognizeLoop fuel (s.count ⟨level.val, h⟩)
      else s.enter level

/-- The recognition step: none while the exit condition or the first-instruction hold is set (60_exceptions.md R286,
R294). -/
def State.recognize (s : State) : State :=
  if s.exitCondition || s.hold then s else recognizeLoop 5 s

/-! ### Memory parity errors -/

/-- Reading the word signals a parity error: the location does not exist, or the environment says so
(20_memory.md R63, R66). -/
def State.parityError (s : State) (addr : Word) : Bool :=
  !s.hasLocation addr || s.parityFaults.contains addr

/-- A parity error stops the CPU: not in IGNORE, and not in INTERRUPT while the parity level is active
(60_exceptions.md R312). -/
def State.parityStops (s : State) : Bool :=
  match s.parityMode with
  | .ignore => false
  | .halt => true
  | .interrupt => !(s.cfg.hasMemParityInt && (s.level memoryParityLevel).state == .active)

/-- An instruction's read: the word, or the address whose parity error aborts the instruction. -/
def State.checkedRead (s : State) (addr : Word) : Except Word Word :=
  if s.parityError addr && s.parityStops then .error addr else .ok (s.readWord addr)

/-- What a parity error found at `addr` does to the instruction being executed: it is aborted with P pointing at it,
and the CPU halts, or enters the wait condition and triggers level X'102' (60_exceptions.md R312). No other register,
indicator or word changes (92_eei_decisions.md D36). -/
def State.parityAbort (s : State) (addr : Word) : State :=
  match s.parityMode with
  | .halt => { s with p := s.regH, parityHalt := true, parityIndicator := true, parityAddress := addr }
  | _ => { s with p := s.regH, wff := true }.trigger memoryParityLevel

/-! ### Protection -/

/-- The protection bit of an address, 0 when the system is not operative (20_memory.md R70, 10_state.md R25). -/
def State.protectedAddress (s : State) (addr : Word) : Bool :=
  s.operative && (s.pr[(addr.field 0 3).toNat]'(addr.field 0 3).isLt).bit (addr.field 4 7).toNat

/-- No violation is raised while the power on or power off level is waiting or active (60_exceptions.md R305). -/
def State.violationsInhibited (s : State) : Bool :=
  s.cfg.hasPowerFailSafe &&
    ((s.level powerOnLevel).state == .waiting || (s.level powerOnLevel).state == .active ||
      (s.level powerOffLevel).state == .waiting || (s.level powerOffLevel).state == .active)

/-- Protection rule 1: a privileged instruction fetched from unprotected memory (60_exceptions.md R301). -/
def State.refusesPrivileged (s : State) : Bool :=
  s.operative && !s.violationsInhibited && !s.protectedAddress s.regH

/-- Protection rule 2: an instruction in protected memory after one in unprotected memory, not the first of an
interrupt routine (60_exceptions.md R302). -/
def State.refusesEntry (s : State) : Bool :=
  s.operative && !s.violationsInhibited && !s.pp && s.protectedAddress s.regH && !s.hold

/-- Protection rule 3: a store from unprotected into protected memory (60_exceptions.md R303). -/
def State.refusesStore (s : State) (addr : Word) : Bool :=
  s.operative && !s.violationsInhibited && !s.protectedAddress s.regH && s.protectedAddress addr

/-- PP follows the program: it becomes the protection bit of the instruction's address (60_exceptions.md R304). -/
def State.followProgram (s : State) : State :=
  { s with pp := s.protectedAddress s.regH }

/-- A refused instruction: P goes back to its address and a level is triggered (60_exceptions.md R306, R311). -/
def State.refuse (s : State) (level : Level) : State :=
  { s with p := s.regH }.trigger level

/-! ### The frame of an instruction -/

/-- What the execution of an admitted instruction came to: a new state, a parity error at an address, or no meaning. -/
inductive Effect
  | done (s : State)
  | parity (addr : Word)
  | undefined (r : Refusal)
deriving DecidableEq, Repr

/-- What a privileged or storing instruction is checked for, besides rule 2. -/
inductive Check
  | plain
  | privileged
  | store (addr : Word)
deriving DecidableEq, Repr

/-- Rules 1 and 3, as far as the instruction is subject to them. -/
def State.refusesCheck (s : State) : Check → Bool
  | .plain => false
  | .privileged => s.refusesPrivileged
  | .store addr => s.refusesStore addr

/-- The protection checks and then the instruction's own effect; a parity error undoes everything but P
(40_memory_reference.md R120, 60_exceptions.md R304, R316, 92_eei_decisions.md D36). -/
def State.perform (s : State) (check : Check) (effect : State → Effect) : Result :=
  if s.refusesEntry then .next (s.refuse protectionLevel)
  else if s.followProgram.refusesCheck check then .next (s.followProgram.refuse protectionLevel)
  else match effect s.followProgram with
    | .done s' => .next s'
    | .parity addr => .next (s.parityAbort addr)
    | .undefined r => .refused r

/-- Read an operand and go on with it. -/
def State.withOperand (s : State) (addr : Word) (k : Word → Effect) : Effect :=
  match s.checkedRead addr with
  | .ok w => k w
  | .error bad => .parity bad

end Sys2Proof.Machine
end

