-- ==== Sys2Proof/Machine/Operands.lean ====
section
/-! DEFINITION. The operand forms: the effective address of the memory-reference format (30_encoding.md R93, R94), the
target of the conditional branches (R95) and the operands of the copy instruction (42_copy.md R165). -/

namespace Sys2Proof.Machine

open Sys2Proof

/-- The nine-bit displacement of a self-relative reference: S is its sign (30_encoding.md R91, R93). -/
def MemRef.displacement (m : MemRef) : BitVec 9 :=
  BitVec.ofBool m.s ++ m.d

/-- Step 1, the reference address: nonrelative, base-relative with X2, or self-relative (30_encoding.md R93). -/
def State.referenceAddress (s : State) (m : MemRef) : Word :=
  if m.r then s.regH + (MemRef.displacement m).signExtend 16
  else if m.s then m.d.setWidth 16 + s.x2
  else m.d.setWidth 16

/-- Step 2, the direct address: one level of indirection, which may give a parity error (R93). -/
def State.directAddress (s : State) (m : MemRef) : Except Word Word :=
  if m.i then s.checkedRead (s.referenceAddress m) else .ok (s.referenceAddress m)

/-- Step 3, the effective address: post-indexing with X1 (R93). Sums are modulo 2^16 (20_memory.md R62). -/
def State.effectiveAddress (s : State) (m : MemRef) : Except Word Word :=
  match s.directAddress m with
  | .ok dir => .ok (if m.x then dir + s.x1 else dir)
  | .error bad => .error bad

/-- Compute the effective address and go on with it; a parity error on the indirect read aborts the instruction
(60_exceptions.md R312). -/
def State.withEffectiveAddress (s : State) (m : MemRef) (k : Word → Result) : Result :=
  match s.effectiveAddress m with
  | .ok ea => k ea
  | .error bad => .next (s.parityAbort bad)

/-- The target of a conditional branch: self-relative, nine bits (30_encoding.md R95, 41_conditional_branch.md R150). -/
def State.branchTarget (s : State) (disp : BitVec 9) : Word :=
  s.regH + disp.signExtend 16

/-- The source operand of a copy instruction (42_copy.md R165). -/
def State.copySource (s : State) (f : CopyOperands) : Word :=
  if f.inv then ~~~(s.gpr f.sr) else s.gpr f.sr

/-- The destination operand of a copy instruction: zero if it is cleared first or is register 0 (42_copy.md R165). -/
def State.copyDestination (s : State) (cd : Bool) (f : CopyOperands) : Word :=
  if cd then 0 else s.gpr f.dr

/-- The increment of a copy instruction: AI adds 1 whatever C is, AC alone adds C (42_copy.md R165). -/
def State.copyIncrement (s : State) (ac ai : Bool) : Bool :=
  ai || (ac && s.c)

end Sys2Proof.Machine
end

