-- ==== Sys2Proof/Machine/Branch.lean ====
section
/-! DEFINITION. The conditional branch instructions (41_conditional_branch.md R150 to R158). -/

namespace Sys2Proof.Machine

open Sys2Proof

/-- P takes the target if the condition holds; otherwise the next instruction is in sequence (R150). -/
def State.branchIf (s : State) (condition : Bool) (disp : BitVec 9) : State :=
  if condition then { s with p := s.branchTarget disp } else s

/-- X1 is incremented, and the branch is taken if the result is not zero (R156). -/
def State.branchOnIndex (s : State) (disp : BitVec 9) : State :=
  { s with x1 := s.x1 + 1 }.branchIf (s.x1 + 1 != 0) disp

/-- BNO: branch if O is 0 (R151). -/
def execBno (disp : BitVec 9) (s : State) : Result :=
  s.perform .plain fun s1 => .done (s1.branchIf (!s1.o) disp)

/-- BNC: branch if C is 0 (R152). -/
def execBnc (disp : BitVec 9) (s : State) : Result :=
  s.perform .plain fun s1 => .done (s1.branchIf (!s1.c) disp)

/-- BAZ: branch if A is zero (R153). -/
def execBaz (disp : BitVec 9) (s : State) : Result :=
  s.perform .plain fun s1 => .done (s1.branchIf (s1.a == 0) disp)

/-- BEN: branch if bit 0 of E is 1 (R154). -/
def execBen (disp : BitVec 9) (s : State) : Result :=
  s.perform .plain fun s1 => .done (s1.branchIf (s1.e.bit 0) disp)

/-- BAN: branch if bit 0 of A is 1 (R155). -/
def execBan (disp : BitVec 9) (s : State) : Result :=
  s.perform .plain fun s1 => .done (s1.branchIf (s1.a.bit 0) disp)

/-- BIX: increment X1 and branch if it is not zero (R156). -/
def execBix (disp : BitVec 9) (s : State) : Result :=
  s.perform .plain fun s1 => .done (s1.branchOnIndex disp)

/-- BXNO: if O is 0, increment X1 and branch if it is not zero (R157). -/
def execBxno (disp : BitVec 9) (s : State) : Result :=
  s.perform .plain fun s1 => .done (if s1.o then s1 else s1.branchOnIndex disp)

/-- BXNC: if C is 0, increment X1 and branch if it is not zero (R158). -/
def execBxnc (disp : BitVec 9) (s : State) : Result :=
  s.perform .plain fun s1 => .done (if s1.c then s1 else s1.branchOnIndex disp)

end Sys2Proof.Machine
end

