-- ==== Sys2Proof/Machine/Flags.lean ====
section
/-! DEFINITION. The results and the O and C indicators of the arithmetic, compare and shift instructions
(40_memory_reference.md R125 to R133; 10_state.md R32). -/

namespace Sys2Proof.Machine

open Sys2Proof

/-- A result with the overflow and carry it gives. -/
structure Flagged where
  value : Word
  o : Bool
  c : Bool
deriving DecidableEq, Repr

/-- The sum of two words and an increment: C is the carry out of bit 0, O is set when operands of one sign give a
result of the other (40_memory_reference.md R125, 42_copy.md R165). -/
def addWords (a w : Word) (inc : Bool) : Flagged :=
  let t := a.toNat + w.toNat + inc.toNat
  let r : Word := BitVec.ofNat 16 t
  { value := r
    o := a.bit 0 == w.bit 0 && r.bit 0 != a.bit 0
    c := decide (0x10000 ≤ t) }

/-- The difference: the carry is that of a + ~w + 1, so C = 1 means no borrow (40_memory_reference.md R126,
90_conflicts.md C2). -/
def subtractWords (a w : Word) : Flagged :=
  let t := a.toNat + (~~~w).toNat + 1
  let r : Word := BitVec.ofNat 16 t
  { value := r
    o := r.bit 0 == w.bit 0 && a.bit 0 != w.bit 0
    c := decide (0x10000 ≤ t) }

/-- The effective word plus 1: O only for X'8000', C only for X'0000' (40_memory_reference.md R130). -/
def incrementWord (w : Word) : Flagged :=
  let r := w + 1
  { value := r, o := r == 0x8000#16, c := r == 0x0000#16 }

/-- The comparison code of two signed words: less 00, greater 10, equal 11 (40_memory_reference.md R133). -/
def compareWords (a w : Word) : Bool × Bool :=
  if a.toInt < w.toInt then (false, false)
  else if w.toInt < a.toInt then (true, false)
  else (true, true)

/-- The signed product as a doubleword (40_memory_reference.md R127). -/
def multiplyWords (a w : Word) : BitVec 32 :=
  BitVec.ofInt 32 (a.toInt * w.toInt)

/-- What a division comes to: the overflow case, or quotient and remainder (40_memory_reference.md R128). -/
inductive Division
  | overflow
  | result (quotient remainder : Word)
deriving DecidableEq, Repr

/-- Divide a doubleword by a word: truncation toward zero; a zero divisor and a quotient of magnitude 2^15 or more
are the overflow case (40_memory_reference.md R128, 92_eei_decisions.md D4). -/
def divideWords (dividend : BitVec 32) (w : Word) : Division :=
  let n := dividend.toInt
  let d := w.toInt
  if d = 0 then .overflow
  else if 0x8000 ≤ (n.tdiv d).natAbs then .overflow
  else .result (BitVec.ofInt 16 (n.tdiv d)) (BitVec.ofInt 16 (n.tmod d))

/-- C after a division that gave a result: bit 0 of the stored remainder, or by `DivZeroRemCarry` the dividend's sign
when the remainder is zero (90_conflicts.md C8, 93_implementation_defined.md U10). -/
def divisionCarry (rule : RemainderCarry) (dividend : BitVec 32) (remainder : Word) : Bool :=
  match rule with
  | .remainderBit => remainder.bit 0
  | .dividendSign => if remainder = 0 then dividend.msb else remainder.bit 0

/-- The four shifts of one register (40_memory_reference.md R132). -/
inductive ShiftKind
  | arithmeticRight | circularRight | arithmeticLeft | circularLeft
deriving DecidableEq, Repr

/-- A register under shift with its indicators. -/
structure Shifting (n : Nat) where
  v : BitVec n
  o : Bool
  c : Bool
deriving DecidableEq, Repr

/-- One position of a shift. A left shift inverts C when a 1 leaves the sign position; an arithmetic left shift sets
O when the new sign differs (40_memory_reference.md R132). -/
def shiftOnce {n : Nat} (kind : ShiftKind) (x : Shifting n) : Shifting n :=
  match kind with
  | .arithmeticRight => { x with v := x.v.sshiftRight 1 }
  | .circularRight => { x with v := x.v.rotateRight 1 }
  | .arithmeticLeft =>
    { v := x.v <<< 1, o := x.o || (x.v <<< 1).msb != x.v.msb, c := if x.v.msb then !x.c else x.c }
  | .circularLeft => { x with v := x.v.rotateLeft 1, c := if x.v.msb then !x.c else x.c }

/-- A shift by a count, one position at a time (40_memory_reference.md R132). -/
def shiftBy {n : Nat} (kind : ShiftKind) : Nat → Shifting n → Shifting n
  | 0, x => x
  | k + 1, x => shiftBy kind k (shiftOnce kind x)

/-- The kind a shift specification names: bit 9 circular, bit 10 left (40_memory_reference.md R132). -/
def shiftKind (ea : Word) : ShiftKind :=
  match ea.bit 9, ea.bit 10 with
  | false, false => .arithmeticRight
  | false, true => .arithmeticLeft
  | true, false => .circularRight
  | true, true => .circularLeft

/-- The count of a shift specification, bits 11 to 15 (40_memory_reference.md R132). -/
def shiftCount (ea : Word) : Nat :=
  (ea.field 11 15).toNat

end Sys2Proof.Machine
end

