-- ==== Sys2Proof/Machine/Copy.lean ====
section
/-! DEFINITION. The copy instruction and its fifteen mnemonics (42_copy.md R165 to R182). -/

namespace Sys2Proof.Machine

open Sys2Proof

/-- The result of a copy operation on its operands and increment (R165). -/
def copyResult (op : CopyOp) (dst src : Word) (inc : Bool) : Word :=
  match op with
  | .land => (dst &&& src) + (BitVec.ofBool inc).setWidth 16
  | .lor => (dst ||| src) + (BitVec.ofBool inc).setWidth 16
  | .lxor => (dst ^^^ src) + (BitVec.ofBool inc).setWidth 16
  | .add => (addWords dst src inc).value

/-- The copy instruction: the source is taken before the destination is cleared; only an addition writes O and C;
register 0 as destination keeps nothing, register 1 is a branch (R165, R166). -/
def copyEffect (op : CopyOp) (ac ai cd : Bool) (f : CopyOperands) (s : State) : State :=
  let src := s.copySource f
  let dst := s.copyDestination cd f
  let inc := s.copyIncrement ac ai
  let s1 := s.setGpr f.dr (copyResult op dst src inc)
  match op with
  | .add => { s1 with o := (addWords dst src inc).o, c := (addWords dst src inc).c }
  | .land | .lor | .lxor => s1

/-- A copy word of any setting, as its unnamed rows are (R182). -/
def execCopy (f : CopyFields) (s : State) : Result :=
  s.perform .plain fun s1 => .done (copyEffect f.op f.ac f.ai f.cd f.operands s1)

/-- RAND: the destination register takes dst AND src (R171). -/
def execRand (f : CopyOperands) (s : State) : Result :=
  s.perform .plain fun s1 => .done (copyEffect .land false false false f s1)

/-- RANDI: the destination register takes (dst AND src) + 1 (R176). -/
def execRandi (f : CopyOperands) (s : State) : Result :=
  s.perform .plain fun s1 => .done (copyEffect .land false true false f s1)

/-- RANDC: the destination register takes (dst AND src) + C (R181). -/
def execRandc (f : CopyOperands) (s : State) : Result :=
  s.perform .plain fun s1 => .done (copyEffect .land true false false f s1)

/-- ROR: the destination register takes dst OR src (R169). -/
def execRor (f : CopyOperands) (s : State) : Result :=
  s.perform .plain fun s1 => .done (copyEffect .lor false false false f s1)

/-- RCPY: the destination register takes src (R167). -/
def execRcpy (f : CopyOperands) (s : State) : Result :=
  s.perform .plain fun s1 => .done (copyEffect .lor false false true f s1)

/-- RORI: the destination register takes (dst OR src) + 1 (R174). -/
def execRori (f : CopyOperands) (s : State) : Result :=
  s.perform .plain fun s1 => .done (copyEffect .lor false true false f s1)

/-- RCPYI: the destination register takes src + 1 (R172). -/
def execRcpyi (f : CopyOperands) (s : State) : Result :=
  s.perform .plain fun s1 => .done (copyEffect .lor false true true f s1)

/-- RORC: the destination register takes (dst OR src) + C (R179). -/
def execRorc (f : CopyOperands) (s : State) : Result :=
  s.perform .plain fun s1 => .done (copyEffect .lor true false false f s1)

/-- RCPYC: the destination register takes src + C (R177). -/
def execRcpyc (f : CopyOperands) (s : State) : Result :=
  s.perform .plain fun s1 => .done (copyEffect .lor true false true f s1)

/-- REOR: the destination register takes dst XOR src (R170). -/
def execReor (f : CopyOperands) (s : State) : Result :=
  s.perform .plain fun s1 => .done (copyEffect .lxor false false false f s1)

/-- REORI: the destination register takes (dst XOR src) + 1 (R175). -/
def execReori (f : CopyOperands) (s : State) : Result :=
  s.perform .plain fun s1 => .done (copyEffect .lxor false true false f s1)

/-- REORC: the destination register takes (dst XOR src) + C (R180). -/
def execReorc (f : CopyOperands) (s : State) : Result :=
  s.perform .plain fun s1 => .done (copyEffect .lxor true false false f s1)

/-- RADD: the destination register takes dst + src, O and C as for ADD (R168). -/
def execRadd (f : CopyOperands) (s : State) : Result :=
  s.perform .plain fun s1 => .done (copyEffect .add false false false f s1)

/-- RADDI: the destination register takes dst + src + 1, O and C as for ADD (R173). -/
def execRaddi (f : CopyOperands) (s : State) : Result :=
  s.perform .plain fun s1 => .done (copyEffect .add false true false f s1)

/-- RADDC: the destination register takes dst + src + C, O and C as for ADD (R178). -/
def execRaddc (f : CopyOperands) (s : State) : Result :=
  s.perform .plain fun s1 => .done (copyEffect .add true false false f s1)

end Sys2Proof.Machine
end

