-- ==== Sys2Proof/Machine/Io.lean ====
section
/-! DEFINITION. The byte-oriented input/output system: device numbers and channels, the IOCD, the service of a channel,
channel end, device interrupts, and the five I/O instructions (44_io.md R230 to R249; 70_reset_and_hazards.md R344). -/

namespace Sys2Proof.Machine

open Sys2Proof

/-! ### Devices, channels and IOCDs -/

/-- Bit 0 of a device number tells a unit of a multiunit controller (44_io.md R231; log entry 12). -/
def isMultiunit (n : Byte) : Bool :=
  n.getMsbD 0

/-- The channel a device number designates: its five low-order bits, or for a multiunit controller bits 1-3, which are
accumulator bits 9-11 (R231). -/
def channelOf (n : Byte) : Nat :=
  if isMultiunit n then (n.extractLsb' 4 3).toNat else (n.extractLsb' 0 5).toNat

/-- Two device numbers that share a device controller (R231). -/
def sameController (n k : Byte) : Bool :=
  n == k || (isMultiunit n && isMultiunit k && n.extractLsb' 4 3 == k.extractLsb' 4 3)

/-- The code of a condition in a device status byte (R247). -/
def Condition.code : Condition → BitVec 2
  | .ready => 0b00
  | .notOperational => 0b01
  | .unavailable => 0b10
  | .busy => 0b11

/-- The device status byte that SIO, TIO and HIO return, Table 5 (R247). -/
def Device.statusByte (d : Device) : Byte :=
  BitVec.ofBool d.pending ++ Condition.code d.condition ++ BitVec.ofBool d.automatic ++ BitVec.ofBool d.unusualEnd
    ++ Condition.code d.controller ++ BitVec.ofBool d.statusBit7

/-- A device accepts SIO when it and its controller are ready and it has no interrupt pending (R242). -/
def Device.accepts (d : Device) : Bool :=
  d.condition == .ready && d.controller == .ready && !d.pending

/-- The device with a number, if one is installed (R241). -/
def State.device (s : State) (n : Byte) : Option Device :=
  s.devices.find? fun d => d.number == n

/-- Change the device with a number. -/
def State.updateDevice (s : State) (n : Byte) (f : Device → Device) : State :=
  { s with devices := s.devices.map fun d => if d.number = n then f d else d }

/-- Set the condition of a device's controller, which all its units share (R247). -/
def State.setController (s : State) (n : Byte) (condition : Condition) : State :=
  { s with
    devices := s.devices.map fun d => if sameController d.number n then { d with controller := condition } else d }

/-- The device raises an interrupt, remembered until AIO, HIO or RESET (R240). `State.ioSignal` gives it to level X'106'
before anything else can happen (log entry 27). -/
def State.raiseDeviceInterrupt (s : State) (n : Byte) : State :=
  s.updateDevice n fun d => { d with pending := true }

/-- The even register of channel `c`: the word address (R232, R233). -/
def State.channelEven (s : State) (c : Nat) : Word :=
  s.channel (2 * c)

/-- The odd register of channel `c`: flags and byte count (R232, R233). -/
def State.channelOdd (s : State) (c : Nat) : Word :=
  s.channel (2 * c + 1)

/-- Load the even register of channel `c`. -/
def State.setChannelEven (s : State) (c : Nat) (v : Word) : State :=
  s.setChannel (2 * c) v

/-- Load the odd register of channel `c`. -/
def State.setChannelOdd (s : State) (c : Nat) (v : Word) : State :=
  s.setChannel (2 * c + 1) v

/-- The byte count of an IOCD's second word, in its low-order end (R233). -/
def byteCount (layout : IocdLayout) (odd : Word) : Nat :=
  odd.toNat % 2 ^ layout.countWidth.val

/-- The data chaining flag of an IOCD's second word (R233). -/
def chains (layout : IocdLayout) (odd : Word) : Bool :=
  odd.bit layout.dcBit.val

/-- The interrupt flag of an IOCD's second word (R233). -/
def wantsInterrupt (layout : IocdLayout) (odd : Word) : Bool :=
  odd.bit layout.iBit.val

/-- Set the error flag E, bit 0 of the odd register (R249). -/
def markError (odd : Word) (error : Bool) : Word :=
  if error then odd ||| 0x8000#16 else odd

/-! ### Orders -/

/-- Which way the bytes of a service step go. -/
inductive Direction
  | toDevice | toMemory | none
deriving DecidableEq, Repr

/-- The direction of the data that follow an order (R238). An unassigned order moves no data. -/
def orderDirection (order : Byte) : Direction :=
  if order.extractLsb' 0 2 = 0b01#2 then .toDevice
  else if order.extractLsb' 0 2 = 0b10#2 then .toMemory
  else if order.extractLsb' 0 2 = 0b11#2 then .toDevice
  else if order.extractLsb' 0 4 = 0b1100#4 then .toMemory
  else if order.extractLsb' 0 4 = 0b0100#4 then .toMemory
  else .none

/-- The Stop order: bits 4-7 zero, bits 1-3 ignored (R238). -/
def isStopOrder (order : Byte) : Bool :=
  order.extractLsb' 0 4 == 0b0000#4

/-- The direction of a device's next byte; the order byte comes from memory (R234). -/
def Device.direction (d : Device) : Direction :=
  match d.phase with
  | .wantsOrder => .toDevice
  | .underOrder order => orderDirection order
  | .quiet => .none
  | .countDone => .none

/-- A device takes a byte from its channel: the order byte when it wants one, else data. A Stop order with its I bit
raises the device's interrupt in a device that interprets it (R238, R240). After a Stop order the device moves no more
data, and stays busy until it gives channel end or unusual end (DESIGN CHOICE, log entry 35). -/
def Device.take (d : Device) (b : Byte) : Device :=
  match d.phase with
  | .wantsOrder =>
    { d with
      phase := .underOrder b
      lastByte := b
      pending := d.pending || (d.interpretsStop && isStopOrder b && b.getMsbD 0) }
  | _ => { d with lastByte := b }

/-! ### Service of a channel -/

/-- The byte count has reached zero: count done, or data chaining to the IOCD after the table, with a device interrupt
if the old IOCD's I flag is set (R235, R240). `odd` is the old second word. -/
def State.countExhausted (s : State) (n : Byte) (c : Nat) (odd : Word) : Result :=
  if chains s.cfg.iocd odd then
    let addr := s.channelEven c
    let s1 := if wantsInterrupt s.cfg.iocd odd then s.raiseDeviceInterrupt n else s
    let next := s.readWord (addr + 1)
    if byteCount s.cfg.iocd next = 0 then .fault .chainedCountZero
    else .next ((s1.setChannelEven c (s.readWord addr)).setChannelOdd c next)
  else .next (s.updateDevice n fun d => { d with phase := .countDone })

/-- After a byte has moved: the word address advances past an odd count, the count goes down by one, E is set on an
error, and a count of zero ends the table (R234, R249). -/
def State.advanceChannel (s : State) (n : Byte) (c : Nat) (error : Bool) : Result :=
  let odd := s.channelOdd c
  let right := byteCount s.cfg.iocd odd % 2 = 1
  let newOdd := markError (odd - 1) error
  let s1 := if right then s.setChannelEven c (s.channelEven c + 1) else s
  let s2 := s1.setChannelOdd c newOdd
  if byteCount s.cfg.iocd odd = 1 then s2.countExhausted n c newOdd else .next s2

/-- One service step for device `n`: one byte between memory and the device, the left byte of the word at an even
count and the right byte at an odd one (R234). Channel stores are not protection-checked (20_memory.md R71). A device in
the manual mode does not operate (R242; log entry 40). A request that the rules do not admit has no effect (log
entry 6). Two devices busy on one channel are both served from its one IOCD (DESIGN CHOICE, log entry 37). -/
def State.service (s : State) (n b : Byte) (bad : Bool) : Result :=
  match s.device n with
  | none => .next s
  | some d =>
    let c := channelOf n
    let count := byteCount s.cfg.iocd (s.channelOdd c)
    let addr := s.channelEven c
    let right : Bool := count % 2 = 1
    if count = 0 || !d.automatic || !decide (c < ioChannels s.cfg) then .next s
    else match d.direction with
      | .none => .next s
      | .toDevice =>
        let byte := if right then (s.readWord addr).lo else (s.readWord addr).hi
        (s.updateDevice n fun d => d.take byte).advanceChannel n c (s.parityError addr)
      | .toMemory => (s.writeHalf addr right b).advanceChannel n c bad

/-- The operational status byte, bits 5-7 zero (R237). -/
def OperationalStatus.byte (status : OperationalStatus) : Byte :=
  BitVec.ofBool status.te ++ BitVec.ofBool status.il ++ BitVec.ofBool status.cm ++ BitVec.ofBool status.ce
    ++ BitVec.ofBool status.ue ++ 0#3

/-- A device and its controller leave the busy condition (R236) and become ready (DESIGN CHOICE, log entry 41). -/
def State.endOperation (s : State) (n : Byte) : State :=
  (s.updateDevice n fun d => { d with phase := .quiet, condition := .ready }).setController n .ready

/-- Channel end or unusual end: the status byte replaces the word address, the operation ends, and the I flag raises a
device interrupt (R236, R240, R247). -/
def State.channelEnd (s : State) (n : Byte) (status : OperationalStatus) : State :=
  match s.device n with
  | none => s
  | some d =>
    let c := channelOf n
    if d.phase == .quiet || !decide (c < ioChannels s.cfg) then s
    else
      let s1 := (s.setChannelEven c (OperationalStatus.byte status ++ 0#8)).endOperation n
      let s2 := s1.updateDevice n fun d => { d with unusualEnd := status.ue }
      if wantsInterrupt s.cfg.iocd (s.channelOdd c) then s2.raiseDeviceInterrupt n else s2

/-- A device with the mode and the device-defined answers of another, and, while no operation of it is in progress, its
condition. Busy is not a condition it can take so: a device is busy from an accepted SIO until the operation is concluded.
The unusual-end bit tells of the previous operation and does not change (R230, R247; log entry 36). -/
def Device.changeTo (d new : Device) : Device :=
  let d1 := { d with
    automatic := new.automatic
    statusBit7 := new.statusBit7
    interpretsStop := new.interpretsStop
    tdvStatus := new.tdvStatus
    tdvCondition := new.tdvCondition
    aioStatus := new.aioStatus
    aioUnusual := new.aioUnusual }
  if d.phase == .quiet && new.condition != .busy then { d1 with condition := new.condition } else d1

/-- No device of a controller has an operation in progress. -/
def State.controllerQuiet (s : State) (n : Byte) : Bool :=
  s.devices.all fun d => !sameController d.number n || d.phase == .quiet

/-- A device changes on its own account. Its controller's condition changes with it, for all units of the controller,
while none of them operates, and not to busy; a single device's controller has the condition of the device (R247; log
entry 36). -/
def State.changeDevice (s : State) (new : Device) : State :=
  let s1 := s.updateDevice new.number fun d => d.changeTo new
  let condition := if isMultiunit new.number then new.controller else new.condition
  if s.controllerQuiet new.number && condition != .busy then s1.setController new.number condition else s1

/-- The signal of the I/O level is held while any device has an interrupt pending (R240, 92_eei_decisions.md D26). -/
def State.ioSignal (s : State) : State :=
  if s.devices.any fun d => d.pending then s.trigger ioLevel else s

/-- RESET stops every device and leaves it and its controller ready, with nothing pending (70_reset_and_hazards.md
R340, 44_io.md R247). -/
def Device.reset (d : Device) : Device :=
  { d with condition := .ready, controller := .ready, unusualEnd := false, pending := false, phase := .quiet }

/-! ### The I/O instructions -/

/-- The device number in A bits 8-15 (R241). -/
def State.deviceNumber (s : State) : Byte :=
  s.a.extractLsb' 0 8

/-- The answer of a device: its status byte in A bits 0-7, the response code in O and C (R241). -/
def State.respond (s : State) (status : Byte) (o c : Bool) : State :=
  { s with a := status ++ s.deviceNumber, o := o, c := c }

/-- No device answers: O and C are 1, 1 and A is unchanged (R241). -/
def State.notRecognized (s : State) : State :=
  { s with o := true, c := true }

/-- Go on with the device that recognises the number in A; a device whose channel has no registers is not described
(R232, R241, 93_implementation_defined.md U7; log entry 13). -/
def State.withDevice (s : State) (k : Device → State) : Effect :=
  match s.device s.deviceNumber with
  | none => .done s.notRecognized
  | some d => if channelOf d.number < ioChannels s.cfg then .done (k d) else .undefined .uninstalledRegister

/-- A device that accepts SIO becomes busy, and its controller with it, in the given phase (R242). -/
def State.startDevice (s : State) (n : Byte) (phase : Phase) : State :=
  (s.updateDevice n fun d => { d with phase := phase, condition := .busy }).setController n .busy

/-- SIO on a recognised device: it is started if it can accept; its status byte before the start is returned (R242).
Whether another device is busy on its channel makes no difference (DESIGN CHOICE, log entry 37). -/
def State.startIo (s : State) (phase : Phase) (d : Device) : State :=
  if d.accepts then (s.startDevice d.number phase).respond (Device.statusByte d) false false
  else s.respond (Device.statusByte d) false true

/-- What SIO does under the load condition besides starting the device: the IOCD X'0000 0080' goes to the channel
registers, the CPU enters the wait condition with P and S cleared, and the load condition ends
(70_reset_and_hazards.md R343, R344, 92_eei_decisions.md D38). -/
def State.prepareLoad (s : State) : State :=
  let c := channelOf s.deviceNumber
  let s1 :=
    if c < ioChannels s.cfg then (s.setChannelEven c 0x0000#16).setChannelOdd c 0x0080#16 else s
  { s1 with wff := true, p := 0, regS := 0, loadCondition := false }

/-- The effect of SIO; under the load condition the device gets the Read order X'02' from the CPU (R242,
70_reset_and_hazards.md R344). -/
def sioEffect (s : State) : Effect :=
  if s.loadCondition then s.prepareLoad.withDevice fun d => s.prepareLoad.startIo (.underOrder 0x02#8) d
  else s.withDevice fun d => s.startIo .wantsOrder d

/-- The effect of TIO: the responses of SIO, starting nothing (R243). -/
def tioEffect (s : State) : Effect :=
  s.withDevice fun d => s.respond (Device.statusByte d) false (!d.accepts)

/-- The effect of TDV: a device-defined status byte and condition (R244). -/
def tdvEffect (s : State) : Effect :=
  s.withDevice fun d => s.respond d.tdvStatus false d.tdvCondition

/-- HIO stops a device's operation and resets its pending interrupt (R245). The unusual-end bit stays that of the
operation before the halted one (DESIGN CHOICE, log entry 42). A device without an operation in progress keeps its
condition, were it busy on its own account (DESIGN CHOICE, log entry 43). -/
def State.haltDevice (s : State) (d : Device) : State :=
  let s1 := if d.phase == .quiet then s else s.endOperation d.number
  s1.updateDevice d.number fun d => { d with pending := false }

/-- The effect of HIO: the device stops; C tells whether its controller was busy (R245). -/
def hioEffect (s : State) : Effect :=
  s.withDevice fun d => (s.haltDevice d).respond (Device.statusByte d) false (d.controller == .busy)

/-- The effect of AIO: the first device with an interrupt pending identifies itself and clears it (R246). -/
def aioEffect (s : State) : State :=
  match s.devices.find? fun d => d.pending with
  | none => s.notRecognized
  | some d =>
    { s.updateDevice d.number fun d => { d with pending := false } with
      a := d.aioStatus ++ d.number, o := false, c := d.aioUnusual }

/-- SIO (R242). -/
def execSio (s : State) : Result :=
  s.perform .privileged sioEffect

/-- TIO (R243). -/
def execTio (s : State) : Result :=
  s.perform .privileged tioEffect

/-- TDV (R244). -/
def execTdv (s : State) : Result :=
  s.perform .privileged tdvEffect

/-- HIO (R245). -/
def execHio (s : State) : Result :=
  s.perform .privileged hioEffect

/-- AIO (R246). -/
def execAio (s : State) : Result :=
  s.perform .privileged fun s1 => .done (aioEffect s1)

end Sys2Proof.Machine
end

