-- ==== Sys2Proof/Machine/Direct.lean ====
section
/-! DEFINITION. READ DIRECT and WRITE DIRECT: the internal control functions, interrupt control, the Watchdog Timer
commands, direct input/output, and the dispatch on the effective address (43_direct_control.md R190 to R223). -/

namespace Sys2Proof.Machine

open Sys2Proof

/-! ### Internal control: the register block -/

/-- RD register: A takes register `n` (R192). Register 0 reads as zero, register 1 as the incremented P
(92_eei_decisions.md D14, 10_state.md R23). -/
def rdRegisterEffect (n : BitVec 6) (s : State) : Effect :=
  match s.register n with
  | some v => .done { s with a := v }
  | none => .undefined .uninstalledRegister

/-- WD register: register `n` takes A; loading register 1 is a branch (R201, 92_eei_decisions.md D14, D15). -/
def wdRegisterEffect (n : BitVec 6) (s : State) : Effect :=
  match s.setRegister n s.a with
  | some s1 => .done s1
  | none => .undefined .uninstalledRegister

/-- WD test and reset bit 0: O takes bit 0 of register `n`, which is then cleared; C is unchanged (R202). -/
def testAndResetEffect (n : BitVec 6) (s : State) : Effect :=
  match s.register n with
  | none => .undefined .uninstalledRegister
  | some v =>
    match s.setRegister n (v &&& 0x7FFF#16) with
    | some s1 => .done { s1 with o := v.bit 0 }
    | none => .undefined .uninstalledRegister

/-- WD protection register: register `r` takes A; without the option nothing happens (R203, 92_eei_decisions.md
D32). -/
def protectionRegisterEffect (r : BitVec 4) (s : State) : State :=
  if s.cfg.hasProtection then { s with pr := s.pr.set r.toNat s.a r.isLt } else s

/-! ### Internal control: the program status -/

/-- The status functions of RD save the status word in A (R194). -/
def State.saveStatus (s : State) : State :=
  { s with a := s.statusWord }

/-- Reset the inhibits the I and E bits of the effective address select (R195, R207). -/
def State.resetInhibits (s : State) (i e : Bool) : State :=
  { s with ii := s.ii && !i, ei := s.ei && !e }

/-- Set the inhibits the I and E bits of the effective address select (R196, R208). -/
def State.setInhibits (s : State) (i e : Bool) : State :=
  { s with ii := s.ii || i, ei := s.ei || e }

/-! ### Interrupt control -/

/-- Apply an action to every installed level of group `g`; the action is given the level's accumulator bit. Override
levels, levels that are not installed and groups without levels are not reached (R210, R219, 92_eei_decisions.md
D12). -/
def State.controlLevels (s : State) (g : BitVec 4) (act : Bool → LevelCell → LevelCell) : State :=
  { s with
    levels := Vector.ofFn fun level : Level =>
      match levelSelector level with
      | some (code, i) =>
        if code = g && installed s.cfg level then act (s.a.bit i) (s.level level) else s.level level
      | none => s.level level }

/-- Code 001, disarm, from any state (R211, R223). -/
def disarmCell (selected : Bool) (cell : LevelCell) : LevelCell :=
  if selected then { cell with state := .disarmed } else cell

/-- Code 010, arm and enable, from any state (R212, R223). -/
def armEnableCell (selected : Bool) (cell : LevelCell) : LevelCell :=
  if selected then { state := .armed, enabled := true } else cell

/-- Code 011, arm and disable, from any state (R213, R223). -/
def armDisableCell (selected : Bool) (cell : LevelCell) : LevelCell :=
  if selected then { state := .armed, enabled := false } else cell

/-- Code 100, enable (R214). -/
def enableCell (selected : Bool) (cell : LevelCell) : LevelCell :=
  if selected then { cell with enabled := true } else cell

/-- Code 101, disable (R215). -/
def disableCell (selected : Bool) (cell : LevelCell) : LevelCell :=
  if selected then { cell with enabled := false } else cell

/-- Code 110, enable the selected levels of the group and disable its other levels (R216). -/
def enableOnlyCell (selected : Bool) (cell : LevelCell) : LevelCell :=
  { cell with enabled := selected }

/-- Code 111, trigger: a selected level that is armed advances to waiting (R217, 60_exceptions.md R281). -/
def triggerCell (selected : Bool) (cell : LevelCell) : LevelCell :=
  if selected && cell.state == .armed then { cell with state := .waiting } else cell

/-! ### Direct input/output and the Watchdog Timer -/

/-- A command of WD. -/
def DioCommand.isWrite : DioCommand → Bool
  | .read _ => false
  | .write _ _ => true

/-- A device acknowledges: its two status bits go to O and C, and for RD its data to A (R222). -/
def State.acceptReply (s : State) (cmd : DioCommand) (r : DioReply) : State :=
  if cmd.isWrite then { s with o := r.o, c := r.c } else { s with a := r.data, o := r.o, c := r.c }

/-- Present a command on the connector. With an acknowledgment at hand the instruction completes; otherwise the
command is held, and the instruction is still in progress (R222). -/
def State.presentCommand (s : State) (cmd : DioCommand) : State :=
  match s.dioReplies with
  | r :: rest => { s with dioOut := some cmd, dioReplies := rest }.acceptReply cmd r
  | [] => { s with dioOut := some cmd, dio := some cmd }

/-- Direct I/O needs the DIO feature (R222, 93_implementation_defined.md U5). -/
def directIoEffect (write : Bool) (ea : Word) (s : State) : Effect :=
  if s.cfg.hasDio then .done (s.presentCommand (if write then .write ea s.a else .read ea))
  else .undefined .noDirectIo

/-- The two status bits the Watchdog Timer returns are free values (R221, 93_implementation_defined.md U11;
log entry 7). -/
def State.freeStatus (s : State) : State :=
  { s with o := freeBit s.free, c := freeBit (s.free + 1), free := s.free + 2 }

/-- A Watchdog Timer command goes out on the connector and the timer acknowledges it. Without the timer its effective
address is one whose bits 4-7 must be zero (R221, 93_implementation_defined.md U3). -/
def watchdogEffect (ea : Word) (act : State → State) (s : State) : Effect :=
  if s.cfg.hasWatchdog then
    .done { (act s).freeStatus with dioOut := some (.write ea s.a) }
  else .undefined .mustBeZero

/-- The timer is enabled (60_exceptions.md R321). A hangup signal already produced stays (DEDUCED, log entry 14). -/
def State.enableWatchdog (s : State) : State :=
  { s with wdEnabled := true }

/-- The timer is disabled and reset, and with it its hangup signal (60_exceptions.md R321; log entry 14). -/
def State.disableWatchdog (s : State) : State :=
  { s with wdEnabled := false, wdHangup := false }

/-! ### The rows of READ DIRECT -/

/-- RD register (R192). -/
def execRdRegister (n : BitVec 6) (s : State) : Result :=
  s.perform .privileged (rdRegisterEffect n)

/-- RD data switches: A takes the DATA switches (R197). -/
def execRdDataSwitches (s : State) : Result :=
  s.perform .privileged fun s1 => .done { s1 with a := s1.panel.data }

/-- RD save status (R194). -/
def execRdSaveStatus (s : State) : Result :=
  s.perform .privileged fun s1 => .done s1.saveStatus

/-- RD save status and reset inhibits: A holds the inhibits as they were (R195). -/
def execRdSaveStatusResetInhibits (i e : Bool) (s : State) : Result :=
  s.perform .privileged fun s1 => .done (s1.saveStatus.resetInhibits i e)

/-- RD save status and set inhibits: A holds the inhibits as they were (R196). -/
def execRdSaveStatusSetInhibits (i e : Bool) (s : State) : Result :=
  s.perform .privileged fun s1 => .done (s1.saveStatus.setInhibits i e)

/-- RD direct I/O (R220, R222). -/
def execRdDirectIO (ea : Word) (s : State) : Result :=
  s.perform .privileged (directIoEffect false ea)

/-! ### The rows of WRITE DIRECT -/

/-- WD register (R201). -/
def execWdRegister (n : BitVec 6) (s : State) : Result :=
  s.perform .privileged (wdRegisterEffect n)

/-- WD test and reset bit 0 of a register (R202). -/
def execWdTestAndResetBit0 (n : BitVec 6) (s : State) : Result :=
  s.perform .privileged (testAndResetEffect n)

/-- WD protection register (R203). -/
def execWdProtectionRegister (r : BitVec 4) (s : State) : Result :=
  s.perform .privileged fun s1 => .done (protectionRegisterEffect r s1)

/-- WD load status: the five indicators take bits 8, 10, 11, 14, 15 of A (R204). -/
def execWdLoadStatus (s : State) : Result :=
  s.perform .privileged fun s1 => .done (s1.loadStatus s1.a)

/-- WD wait (R205). -/
def execWdWait (s : State) : Result :=
  s.perform .privileged fun s1 => .done { s1 with wff := true }

/-- WD exit: set the exit condition (R206). -/
def execWdExit (s : State) : Result :=
  s.perform .privileged fun s1 => .done { s1 with exitCondition := true }

/-- WD reset inhibits (R207). -/
def execWdResetInhibits (i e : Bool) (s : State) : Result :=
  s.perform .privileged fun s1 => .done (s1.resetInhibits i e)

/-- WD set inhibits (R208). -/
def execWdSetInhibits (i e : Bool) (s : State) : Result :=
  s.perform .privileged fun s1 => .done (s1.setInhibits i e)

/-- WD interrupt control 001, disarm (R211). -/
def execWdInterruptControl001 (g : BitVec 4) (s : State) : Result :=
  s.perform .privileged fun s1 => .done (s1.controlLevels g disarmCell)

/-- WD interrupt control 010, arm and enable (R212). -/
def execWdInterruptControl010 (g : BitVec 4) (s : State) : Result :=
  s.perform .privileged fun s1 => .done (s1.controlLevels g armEnableCell)

/-- WD interrupt control 011, arm and disable (R213). -/
def execWdInterruptControl011 (g : BitVec 4) (s : State) : Result :=
  s.perform .privileged fun s1 => .done (s1.controlLevels g armDisableCell)

/-- WD interrupt control 100, enable (R214). -/
def execWdInterruptControl100 (g : BitVec 4) (s : State) : Result :=
  s.perform .privileged fun s1 => .done (s1.controlLevels g enableCell)

/-- WD interrupt control 101, disable (R215). -/
def execWdInterruptControl101 (g : BitVec 4) (s : State) : Result :=
  s.perform .privileged fun s1 => .done (s1.controlLevels g disableCell)

/-- WD interrupt control 110, enable the selected levels and disable the rest of the group (R216). -/
def execWdInterruptControl110 (g : BitVec 4) (s : State) : Result :=
  s.perform .privileged fun s1 => .done (s1.controlLevels g enableOnlyCell)

/-- WD interrupt control 111, trigger (R217). -/
def execWdInterruptControl111 (g : BitVec 4) (s : State) : Result :=
  s.perform .privileged fun s1 => .done (s1.controlLevels g triggerCell)

/-- WD watchdog Disable (R221). -/
def execWdWatchdogDisable (s : State) : Result :=
  s.perform .privileged (watchdogEffect 0x0100#16 State.disableWatchdog)

/-- WD watchdog Enable (R221). -/
def execWdWatchdogEnable (s : State) : Result :=
  s.perform .privileged (watchdogEffect 0x0200#16 State.enableWatchdog)

/-- WD watchdog Reset Timer: the interval starts again, which a model without time does not see (R221,
60_exceptions.md R321). A hangup signal already produced stays (DEDUCED, log entry 14). -/
def execWdWatchdogResetTimer (s : State) : Result :=
  s.perform .privileged (watchdogEffect 0x0300#16 fun s1 => s1)

/-- WD direct I/O (R220, R222). -/
def execWdDirectIO (ea : Word) (s : State) : Result :=
  s.perform .privileged (directIoEffect true ea)

/-! ### RD and WD -/

/-- Why an RD effective address selects no function (R198). -/
def rdUndefined (ea : Word) : Refusal :=
  if ea.field 0 3 = 0x1#4 then .interruptModeRead
  else if ea.field 4 7 ≠ 0x0#4 then .mustBeZero
  else .undefinedFunction

/-- Why a WD effective address selects no function (R209, R210, R218). -/
def wdUndefined (ea : Word) : Refusal :=
  if ea.field 0 3 = 0x1#4 then
    (if ea.bit 4 || ea.field 8 11 ≠ 0x0#4 then .mustBeZero else .undefinedInterruptCode)
  else if ea.field 4 7 ≠ 0x0#4 then .mustBeZero
  else .undefinedFunction

/-- The function an RD effective address selects. -/
def execRdFunction (f : RdFunction) (s : State) : Result :=
  match f with
  | .register n => execRdRegister n s
  | .sio => execSio s
  | .tio => execTio s
  | .tdv => execTdv s
  | .hio => execHio s
  | .aio => execAio s
  | .dataSwitches => execRdDataSwitches s
  | .saveStatus => execRdSaveStatus s
  | .saveStatusResetInhibits i e => execRdSaveStatusResetInhibits i e s
  | .saveStatusSetInhibits i e => execRdSaveStatusSetInhibits i e s
  | .directIO ea => execRdDirectIO ea s

/-- The function a WD effective address selects. -/
def execWdFunction (f : WdFunction) (s : State) : Result :=
  match f with
  | .register n => execWdRegister n s
  | .testAndResetBit0 n => execWdTestAndResetBit0 n s
  | .protectionRegister r => execWdProtectionRegister r s
  | .loadStatus => execWdLoadStatus s
  | .wait => execWdWait s
  | .exit => execWdExit s
  | .resetInhibits i e => execWdResetInhibits i e s
  | .setInhibits i e => execWdSetInhibits i e s
  | .interruptControl001 g => execWdInterruptControl001 g s
  | .interruptControl010 g => execWdInterruptControl010 g s
  | .interruptControl011 g => execWdInterruptControl011 g s
  | .interruptControl100 g => execWdInterruptControl100 g s
  | .interruptControl101 g => execWdInterruptControl101 g s
  | .interruptControl110 g => execWdInterruptControl110 g s
  | .interruptControl111 g => execWdInterruptControl111 g s
  | .watchdogDisable => execWdWatchdogDisable s
  | .watchdogEnable => execWdWatchdogEnable s
  | .watchdogResetTimer => execWdWatchdogResetTimer s
  | .directIO ea => execWdDirectIO ea s

/-- RD: the effective address is the command (R190, R191). -/
def execRd (m : MemRef) (s : State) : Result :=
  s.withEffectiveAddress m fun ea =>
    match decodeRd ea with
    | some f => execRdFunction f s
    | none => s.perform .privileged fun _ => .undefined (rdUndefined ea)

/-- WD: the effective address is the command (R190, R200). -/
def execWd (m : MemRef) (s : State) : Result :=
  s.withEffectiveAddress m fun ea =>
    match decodeWd ea with
    | some f => execWdFunction f s
    | none => s.perform .privileged fun _ => .undefined (wdUndefined ea)

end Sys2Proof.Machine
end

