-- ==== Sys2Proof/Machine/MemoryReference.lean ====
section
/-! DEFINITION. The memory-reference instructions other than RD and WD (40_memory_reference.md R120 to R133). -/

namespace Sys2Proof.Machine

open Sys2Proof

/-- An instruction of this format that reads its effective word and is subject to rule 2 only. -/
def State.withEffectiveWord (s : State) (m : MemRef) (effect : State → Word → State) : Result :=
  s.withEffectiveAddress m fun ea =>
    s.perform .plain fun s1 => s1.withOperand ea fun w => .done (effect s1 w)

/-- LDA: A takes the effective word (R121). -/
def execLda (m : MemRef) (s : State) : Result :=
  s.withEffectiveWord m fun s1 w => { s1 with a := w }

/-- STA: the effective location takes A, subject to protection rule 3 (R122). -/
def execSta (m : MemRef) (s : State) : Result :=
  s.withEffectiveAddress m fun ea => s.perform (.store ea) fun s1 => .done (s1.writeWord ea s1.a)

/-- The exit form of LDX: both words of the effective doubleword are read, then the environment is restored (R124). -/
def exitEffect (ea : Word) (s : State) : Effect :=
  s.withOperand ea fun w0 => s.withOperand (ea + 1) fun w1 => .done (s.leave w0 w1)

/-- LDX in its exit form, next after WD X'00D8' (R124). -/
def execLdxExitForm (m : MemRef) (s : State) : Result :=
  s.withEffectiveAddress m fun ea => s.perform .plain fun s1 => exitEffect ea s1

/-- LDX: X1 takes the effective word, or, with the exit condition set, the exit form (R123, R124). -/
def execLdx (m : MemRef) (s : State) : Result :=
  if s.exitCondition then s.withEffectiveAddress m fun ea => s.perform .plain fun s1 => exitEffect ea s1
  else s.withEffectiveWord m fun s1 w => { s1 with x1 := w }

/-- ADD: A, O and C take the sum of A and the effective word (R125). -/
def execAdd (m : MemRef) (s : State) : Result :=
  s.withEffectiveWord m fun s1 w =>
    { s1 with a := (addWords s1.a w false).value, o := (addWords s1.a w false).o, c := (addWords s1.a w false).c }

/-- SUB: A, O and C take the difference of A and the effective word (R126). -/
def execSub (m : MemRef) (s : State) : Result :=
  s.withEffectiveWord m fun s1 w =>
    { s1 with a := (subtractWords s1.a w).value, o := (subtractWords s1.a w).o, c := (subtractWords s1.a w).c }

/-- AND: A takes the logical product (R129). -/
def execAnd (m : MemRef) (s : State) : Result :=
  s.withEffectiveWord m fun s1 w => { s1 with a := s1.a &&& w }

/-- CP: O and C take the comparison code (R133). -/
def execCp (m : MemRef) (s : State) : Result :=
  s.withEffectiveWord m fun s1 w => { s1 with o := (compareWords s1.a w).1, c := (compareWords s1.a w).2 }

/-- MUL: E and A take the doubleword product and C its sign; without the option the multiply exception level is
triggered and the operand is not read (R127, 60_exceptions.md R311). -/
def execMul (m : MemRef) (s : State) : Result :=
  s.withEffectiveAddress m fun ea =>
    s.perform .plain fun s1 =>
      if s1.cfg.hasMulDiv then
        s1.withOperand ea fun w =>
          .done { s1 with
            e := (multiplyWords s1.a w).extractLsb' 16 16
            a := (multiplyWords s1.a w).extractLsb' 0 16
            c := (multiplyWords s1.a w).msb }
      else .done (s1.refuse multiplyLevel)

/-- What DIV writes for a divisor `w` (R128). -/
def divideEffect (s : State) (w : Word) : State :=
  match divideWords (s.e ++ s.a) w with
  | .overflow => { s with o := true, c := s.e.bit 0 }
  | .result q r => { s with o := false, a := q, e := r, c := divisionCarry s.cfg.divZeroRemCarry (s.e ++ s.a) r }

/-- DIV: A takes the quotient, E the remainder; without the option the divide exception level is triggered (R128,
60_exceptions.md R311). -/
def execDiv (m : MemRef) (s : State) : Result :=
  s.withEffectiveAddress m fun ea =>
    s.perform .plain fun s1 =>
      if s1.cfg.hasMulDiv then s1.withOperand ea fun w => .done (divideEffect s1 w)
      else .done (s1.refuse divideLevel)

/-- IM: the effective location, O and C take the effective word plus 1, subject to protection rule 3 (R130). -/
def execIm (m : MemRef) (s : State) : Result :=
  s.withEffectiveAddress m fun ea =>
    s.perform (.store ea) fun s1 =>
      s1.withOperand ea fun w =>
        .done { s1.writeWord ea (incrementWord w).value with o := (incrementWord w).o, c := (incrementWord w).c }

/-- B: P takes the effective address (R131). -/
def execB (m : MemRef) (s : State) : Result :=
  s.withEffectiveAddress m fun ea => s.perform .plain fun s1 => .done { s1 with p := ea }

/-- What S writes under the specification in the low byte of `ea`: bit 8 selects E and A as one register (R132). -/
def shiftEffect (s : State) (ea : Word) : State :=
  if ea.bit 8 then
    let x : Shifting 32 := shiftBy (shiftKind ea) (shiftCount ea) { v := s.e ++ s.a, o := false, c := false }
    { s with e := x.v.extractLsb' 16 16, a := x.v.extractLsb' 0 16, o := x.o, c := x.c }
  else
    let x : Shifting 16 := shiftBy (shiftKind ea) (shiftCount ea) { v := s.a, o := false, c := false }
    { s with a := x.v, o := x.o, c := x.c }

/-- S: shift A, or E and A, by the specification in the effective address, which is not used for a memory access
(R132). -/
def execShift (m : MemRef) (s : State) : Result :=
  s.withEffectiveAddress m fun ea => s.perform .plain fun s1 => .done (shiftEffect s1 ea)

end Sys2Proof.Machine
end

