-- ==== Sys2Proof/Machine/Dispatch.lean ====
section
/-! DEFINITION. The meaning of every instruction, one arm per constructor of `Instr`. -/

namespace Sys2Proof.Machine

open Sys2Proof

/-- The meaning of an instruction: the execute part of a step (40_memory_reference.md R120), with H holding the
instruction's address and P the next one in sequence. -/
def exec (i : Instr) (s : State) : Host.Outcome State Fault Refusal :=
  match i with
  | .wd m => Sys2Proof.Machine.execWd m s
  | .rd m => Sys2Proof.Machine.execRd m s
  | .shift m => Sys2Proof.Machine.execShift m s
  | .mul m => Sys2Proof.Machine.execMul m s
  | .b m => Sys2Proof.Machine.execB m s
  | .div m => Sys2Proof.Machine.execDiv m s
  | .lda m => Sys2Proof.Machine.execLda m s
  | .and m => Sys2Proof.Machine.execAnd m s
  | .add m => Sys2Proof.Machine.execAdd m s
  | .sub m => Sys2Proof.Machine.execSub m s
  | .ldx m => Sys2Proof.Machine.execLdx m s
  | .cp m => Sys2Proof.Machine.execCp m s
  | .sta m => Sys2Proof.Machine.execSta m s
  | .im m => Sys2Proof.Machine.execIm m s
  | .ldxExitForm m => Sys2Proof.Machine.execLdxExitForm m s
  | .bno disp => Sys2Proof.Machine.execBno disp s
  | .bnc disp => Sys2Proof.Machine.execBnc disp s
  | .baz disp => Sys2Proof.Machine.execBaz disp s
  | .bix disp => Sys2Proof.Machine.execBix disp s
  | .bxno disp => Sys2Proof.Machine.execBxno disp s
  | .bxnc disp => Sys2Proof.Machine.execBxnc disp s
  | .ben disp => Sys2Proof.Machine.execBen disp s
  | .ban disp => Sys2Proof.Machine.execBan disp s
  | .copy f => Sys2Proof.Machine.execCopy f s
  | .rand f => Sys2Proof.Machine.execRand f s
  | .randi f => Sys2Proof.Machine.execRandi f s
  | .randc f => Sys2Proof.Machine.execRandc f s
  | .ror f => Sys2Proof.Machine.execRor f s
  | .rcpy f => Sys2Proof.Machine.execRcpy f s
  | .rori f => Sys2Proof.Machine.execRori f s
  | .rcpyi f => Sys2Proof.Machine.execRcpyi f s
  | .rorc f => Sys2Proof.Machine.execRorc f s
  | .rcpyc f => Sys2Proof.Machine.execRcpyc f s
  | .reor f => Sys2Proof.Machine.execReor f s
  | .reori f => Sys2Proof.Machine.execReori f s
  | .reorc f => Sys2Proof.Machine.execReorc f s
  | .radd f => Sys2Proof.Machine.execRadd f s
  | .raddi f => Sys2Proof.Machine.execRaddi f s
  | .raddc f => Sys2Proof.Machine.execRaddc f s
  | .sio => Sys2Proof.Machine.execSio s
  | .tio => Sys2Proof.Machine.execTio s
  | .tdv => Sys2Proof.Machine.execTdv s
  | .hio => Sys2Proof.Machine.execHio s
  | .aio => Sys2Proof.Machine.execAio s
  | .rdRegister n => Sys2Proof.Machine.execRdRegister n s
  | .rdDataSwitches => Sys2Proof.Machine.execRdDataSwitches s
  | .rdSaveStatus => Sys2Proof.Machine.execRdSaveStatus s
  | .rdSaveStatusResetInhibits inh ext => Sys2Proof.Machine.execRdSaveStatusResetInhibits inh ext s
  | .rdSaveStatusSetInhibits inh ext => Sys2Proof.Machine.execRdSaveStatusSetInhibits inh ext s
  | .rdDirectIO ea => Sys2Proof.Machine.execRdDirectIO ea s
  | .wdRegister n => Sys2Proof.Machine.execWdRegister n s
  | .wdTestAndResetBit0 n => Sys2Proof.Machine.execWdTestAndResetBit0 n s
  | .wdProtectionRegister r => Sys2Proof.Machine.execWdProtectionRegister r s
  | .wdLoadStatus => Sys2Proof.Machine.execWdLoadStatus s
  | .wdWait => Sys2Proof.Machine.execWdWait s
  | .wdExit => Sys2Proof.Machine.execWdExit s
  | .wdResetInhibits inh ext => Sys2Proof.Machine.execWdResetInhibits inh ext s
  | .wdSetInhibits inh ext => Sys2Proof.Machine.execWdSetInhibits inh ext s
  | .wdInterruptControl001 g => Sys2Proof.Machine.execWdInterruptControl001 g s
  | .wdInterruptControl010 g => Sys2Proof.Machine.execWdInterruptControl010 g s
  | .wdInterruptControl011 g => Sys2Proof.Machine.execWdInterruptControl011 g s
  | .wdInterruptControl100 g => Sys2Proof.Machine.execWdInterruptControl100 g s
  | .wdInterruptControl101 g => Sys2Proof.Machine.execWdInterruptControl101 g s
  | .wdInterruptControl110 g => Sys2Proof.Machine.execWdInterruptControl110 g s
  | .wdInterruptControl111 g => Sys2Proof.Machine.execWdInterruptControl111 g s
  | .wdWatchdogDisable => Sys2Proof.Machine.execWdWatchdogDisable s
  | .wdWatchdogEnable => Sys2Proof.Machine.execWdWatchdogEnable s
  | .wdWatchdogResetTimer => Sys2Proof.Machine.execWdWatchdogResetTimer s
  | .wdDirectIO ea => Sys2Proof.Machine.execWdDirectIO ea s

end Sys2Proof.Machine
end

