-- ==== Sys2Proof/Machine/Power.lean ====
section
/-! DEFINITION. The power of the machine (60_exceptions.md R313, R324; 70_reset_and_hazards.md R342): losing it, its
return, and what then stands in the volatile registers and flip-flops, which the manual does not say
(91_not_in_source.md N25). -/

namespace Sys2Proof.Machine

open Sys2Proof

/-- The cell of a level after a return of power, from three free bits: an installed override level is enabled and not
disarmed (60_exceptions.md R273), a counter level is not active (R292), any other installed level is in any state
(log entry 39). -/
def powerUpCell (cfg : Config) (level : Level) (b0 b1 b2 : Bool) : LevelCell :=
  if !installed cfg level then ⟨.disarmed, false⟩
  else if isOverride level then ⟨if b0 then .armed else if b1 then .waiting else .active, true⟩
  else if isCounter level then ⟨if b0 then .disarmed else if b1 then .armed else .waiting, b2⟩
  else ⟨if b0 then (if b1 then .disarmed else .armed) else if b1 then .waiting else .active, b2⟩

/-- The machine right after a return of power: core memory is kept (R313, R342), and what the registers, indicators and
levels hold, whether the CPU executes by itself with COMPUTE in RUN, and the state of the Watchdog Timer (R321) are free
values (N25; log entry 39). Two limits are the model's choice (DESIGN CHOICE, log entry 39): with COMPUTE in IDLE WFF is
0, and a CPU that waits has no first instruction set up in D, so that an interrupt can end its wait (R293; 10_state.md
R34; 70_reset_and_hazards.md R345). -/
def State.powerUp (s : State) : State :=
  let n := s.free
  let waits := s.computeRuns && freeBit (n + 5)
  { s with
    p := freeWord n
    l := freeWord (n + 1)
    t := freeWord (n + 2)
    x1 := freeWord (n + 3)
    x2 := freeWord (n + 4)
    e := freeWord (n + 5)
    a := freeWord (n + 6)
    regH := freeWord (n + 7)
    regD := freeWord (n + 8)
    regS := freeWord (n + 9)
    parityAddress := freeWord (n + 10)
    ch := Vector.ofFn fun k : Fin 40 => freeWord (n + 16 + k.val)
    pr := if s.cfg.hasProtection then Vector.ofFn fun k : Fin 16 => freeWord (n + 56 + k.val) else s.pr
    pp := s.cfg.hasProtection && freeBit n
    ii := freeBit (n + 1)
    ei := freeBit (n + 2)
    o := freeBit (n + 3)
    c := freeBit (n + 4)
    wff := waits
    exitCondition := freeBit (n + 6)
    hold := freeBit (n + 7)
    loadCondition := freeBit (n + 8)
    parityHalt := freeBit (n + 9)
    parityIndicator := freeBit (n + 10)
    started := !waits && freeBit (n + 11)
    dormant := s.computeRuns && freeBit (n + 12)
    wdEnabled := s.cfg.hasWatchdog && freeBit (n + 13)
    wdHangup := s.cfg.hasWatchdog && freeBit (n + 14)
    dioFailure := s.cfg.hasWatchdog && freeBit (n + 15)
    levels := Vector.ofFn fun level : Level => powerUpCell s.cfg level (freeBit (n + 16 + 3 * level.val))
      (freeBit (n + 17 + 3 * level.val)) (freeBit (n + 18 + 3 * level.val))
    free := n + 512 }

/-- The POWER switch or the supply changes, `s` before and `s1` after: a return of power signals the power on level, and
a loss of it ends an instruction held on the direct I/O connector (R313, R324, R342; log entry 39). -/
def State.changePower (s s1 : State) : State :=
  if !s.powered && s1.powered then s1.powerUp.trigger powerOnLevel
  else if s.powered && !s1.powered then { s1 with dio := none }
  else s1

/-- Power returns to safe limits: the power on level is signalled, also where the CPU never lost it (R313). -/
def State.returnPower (s : State) : State :=
  if s.powered then s.trigger powerOnLevel else s.changePower { s with supply := true }

end Sys2Proof.Machine
end

