-- ==== Sys2Proof/Machine/Cycle.lean ====
section
/-! DEFINITION. The machine's top-level cycle (60_exceptions.md R294): the instruction step (40_memory_reference.md
R120), the operator's panel (60_exceptions.md R323, 70_reset_and_hazards.md R340 to R345), the events of the
environment at a boundary, and one pass of the cycle. -/

namespace Sys2Proof.Machine

open Sys2Proof

/-! ### The instruction step -/

/-- P after a fetch: the next address in sequence, or P itself with PROG ADD in HOLD (R120; 60_exceptions.md R323). -/
def State.nextProgramAddress (s : State) : Word :=
  if s.holdsProgramAddress then s.p else s.p + 1

/-- The fetch: H takes P, D the word there, P moves on; a parity error aborts the instruction (R120,
60_exceptions.md R312). The first instruction after COMPUTE goes to RUN is the one already in D, at H
(70_reset_and_hazards.md R345). -/
def State.fetch (s : State) : Except State State :=
  if s.started then .ok { s with started := false, p := s.nextProgramAddress }
  else
    match s.checkedRead s.p with
    | .error bad => .error ({ s with regH := s.p }.parityAbort bad)
    | .ok w => .ok { s with regH := s.p, regD := w, p := s.nextProgramAddress }

/-- The levels with a signal of customer equipment: integral 1 to 4 and the external groups (60_exceptions.md R274,
R275). -/
def takesExternalSignal (level : Level) : Bool :=
  16 ≤ level.val

/-- A signal of the Watchdog Timer goes to the level the customer wired it to, if there is one (60_exceptions.md R315,
R321; log entry 38). -/
def State.signalWired (s : State) (wired : Option Level) : State :=
  match wired with
  | some level => if takesExternalSignal level then s.trigger level else s
  | none => s

/-- The end of an instruction clears the first-instruction hold (60_exceptions.md R289). After the instruction that
follows an aborted direct I/O instruction comes the interrupt of the response failure (R321; log entry 38). -/
def State.finish (s : State) : State :=
  if s.dioFailure then { s with hold := false, dioFailure := false }.signalWired s.cfg.dioFailureLevel
  else { s with hold := false }

/-- The end of an instruction, unless it is still held on the direct I/O connector (43_direct_control.md R222). -/
def State.complete (s : State) : State :=
  if s.dio.isSome then s else s.finish

/-- LDX, the one instruction that may follow WD X'00D8' (40_memory_reference.md R124). -/
def isLoadIndex (i : Instr) : Bool :=
  match i with
  | .ldx _ => true
  | _ => false

/-- The instruction in D (R120). After WD X'00D8' anything but LDX is not described (93_implementation_defined.md
U8). That such an instruction is refused as U8 says also where a protection rule would refuse it is the model's choice
(DESIGN CHOICE, log entry 28). -/
def State.executeD (s : State) : Result :=
  if s.exitCondition && !isLoadIndex (decodeWord s.regD) then .refused .exitPairBroken
  else
    match exec (decodeWord s.regD) s with
    | .next s1 => .next s1.complete
    | .fault f => .fault f
    | .refused r => .refused r

/-- One instruction step (R120). -/
def State.instructionStep (s : State) : Result :=
  match s.fetch with
  | .ok s1 => s1.executeD
  | .error s1 => .next s1.complete

/-! ### The operator's panel -/

/-- The panel brings the instruction at P to D, with H at its address. A nonexistent location, or a failing one, gives
the parity error of an instruction access, which halts the CPU or signals the parity level; COMPUTE in IDLE keeps WFF
reset (20_memory.md R63, R66; 60_exceptions.md R312; 10_state.md R34; log entry 24). -/
def State.accessInstruction (s : State) : State :=
  let s1 := { s with regH := s.p, regD := s.readWord s.p }
  if s.parityError s.p && s.parityStops then { s1.parityAbort s.p with wff := false } else s1

/-- COMPUTE comes to IDLE: WFF is reset, P and S hold the address of the next instruction, and this is brought to D
(60_exceptions.md R323, 10_state.md R34). -/
def State.toIdle (s : State) : State :=
  { s with wff := false, started := false, dormant := false, regS := s.p }.accessInstruction

/-- COMPUTE goes to RUN: the instruction in D is executed first, D and H being used as they stand. WFF is 0, as it is
whenever COMPUTE stands in IDLE (`State.Inv`) (70_reset_and_hazards.md R345, 10_state.md R34). -/
def State.toRun (s : State) : State :=
  { s with started := true }

/-- A switch moves; a CPU with power starts or stops when that changes whether COMPUTE acts as RUN. -/
def State.movePanel (s : State) (panel : Panel) : State :=
  let s1 := { s with panel := panel }
  if !s.powered then s1
  else if s.computeRuns && !s1.computeRuns then s1.toIdle
  else if !s.computeRuns && s1.computeRuns then s1.toRun
  else s1

/-- The right PARITY ERROR switch: moving it to IGNORE clears a memory parity halt and its indicator
(60_exceptions.md R312). A locked key takes the switch out of operation (R323). Neither locking the key nor unlocking it
with the switch already at IGNORE clears the halt (DESIGN CHOICE, log entry 46). -/
def State.moveParityIgnore (s : State) (ignore : Bool) : State :=
  let s1 := { s with panel := { s.panel with parityIgnore := ignore } }
  if ignore && s.panel.key == .unlocked then { s1 with parityHalt := false, parityIndicator := false } else s1

/-- The register SELECT names (60_exceptions.md R323). -/
def State.selected (s : State) : Word :=
  match s.panel.select with
  | .e => s.e
  | .a => s.a
  | .s => s.regS
  | .d => s.regD
  | .p => s.p
  | .l => s.l
  | .t => s.t
  | .x1 => s.x1
  | .x2 => s.x2

/-- Load the register SELECT names. -/
def State.setSelected (s : State) (v : Word) : State :=
  match s.panel.select with
  | .e => { s with e := v }
  | .a => { s with a := v }
  | .s => { s with regS := v }
  | .d => { s with regD := v }
  | .p => { s with p := v }
  | .l => { s with l := v }
  | .t => { s with t := v }
  | .x1 => { s with x1 := v }
  | .x2 => { s with x2 := v }

/-- The DISPLAY lights: the selected register, or in a memory parity halt the address of the error
(60_exceptions.md R312, R323). -/
def State.display (s : State) : Word :=
  if s.parityHalt then s.parityAddress else s.selected

/-- MEMORY FETCH: the word at S goes to D and S to P, ready to be the first instruction in RUN (60_exceptions.md
R323). -/
def State.memoryFetch (s : State) : State :=
  { s with p := s.regS }.accessInstruction

/-- INITIALIZE RESET (70_reset_and_hazards.md R340, R341; 10_state.md R55; 92_eei_decisions.md D20). -/
def State.initializeReset (s : State) : State :=
  { s with
    pp := s.cfg.hasProtection
    ii := false
    ei := false
    o := false
    c := false
    parityIndicator := false
    parityHalt := false
    regS := 0
    levels := resetLevels s.cfg
    wff := false
    exitCondition := false
    hold := false
    devices := s.devices.map Device.reset }

/-- INITIALIZE LOAD: A and P are cleared, the load condition is set, and SIO is set up in D
(70_reset_and_hazards.md R343). -/
def State.initializeLoad (s : State) : State :=
  { s with a := 0, p := 0, loadCondition := true, regD := 0x1041#16 }

/-- COMPUTE to STEP: the instruction in D is executed, and the next one is brought to D (60_exceptions.md R323). -/
def State.singleStep (s : State) : Result :=
  match s.toRun.instructionStep with
  | .next s1 => .next s1.toIdle
  | .fault f => .fault f
  | .refused r => .refused r

/-- A switch that is operative only with the key UNLOCKED and COMPUTE in IDLE (60_exceptions.md R323). -/
def State.whenIdle (s : State) (s1 : State) : Result :=
  if s.idle then .next s1 else .next s

/-- One operator action (60_exceptions.md R277, R323). -/
def State.operate (s : State) : PanelAction → Result
  | .power on => .next (s.changePower { s with panel := { s.panel with power := on } })
  | .key k => .next (s.movePanel { s.panel with key := k })
  | .compute c => .next (s.movePanel { s.panel with compute := c })
  | .step => if !s.idle || s.parityHalt || s.dio.isSome then .next s else s.singleStep
  | .protect on => .next { s with panel := { s.panel with protect := on } }
  | .parityHalt halt => .next { s with panel := { s.panel with parityHalt := halt } }
  | .parityIgnore ignore => .next (s.moveParityIgnore ignore)
  | .progAddHold hold => .next { s with panel := { s.panel with progAddHold := hold } }
  | .data w => .next { s with panel := { s.panel with data := w } }
  | .select r => s.whenIdle { s with panel := { s.panel with select := r } }
  | .registerClear => s.whenIdle (s.setSelected 0)
  | .registerEnter => s.whenIdle (s.setSelected (s.selected ||| s.panel.data))
  | .memoryStore => s.whenIdle (s.writeWord s.regS s.regD)
  | .memoryFetch => s.whenIdle s.memoryFetch
  | .incrementAddress => s.whenIdle { s with regS := s.regS + 1 }.memoryFetch
  | .interrupt => .next (s.trigger panelLevel)
  | .reset => s.whenIdle s.initializeReset
  | .load => s.whenIdle s.initializeLoad

/-! ### Direct input/output in progress -/

/-- An instruction held on the connector ends; in IDLE the panel then shows the next one (43_direct_control.md R222;
log entry 15). -/
def State.endHold (s : State) : State :=
  let s1 := { s with dio := none }.finish
  if s1.idle then s1.toIdle else s1

/-- The Watchdog Timer's substitute acknowledge: the instruction is aborted, O, C and for RD the accumulator are free
values, and the response failure is due after the next instruction (60_exceptions.md R321,
93_implementation_defined.md U11; log entries 7 and 38). -/
def State.abortDio (s : State) (cmd : DioCommand) : State :=
  { { s with
      a := if cmd.isWrite then s.a else freeWord s.free
      o := freeBit s.free
      c := freeBit (s.free + 1)
      free := s.free + 2 }.endHold with dioFailure := true }

/-- The substitute acknowledge comes only to a held instruction, from an installed timer. -/
def State.timeoutDio (s : State) : State :=
  match s.dio with
  | some cmd => if s.cfg.hasWatchdog then s.abortDio cmd else s
  | none => s

/-- While an instruction is held the machine waits for the acknowledgment (43_direct_control.md R222). -/
def State.awaitReply (s : State) (cmd : DioCommand) : State :=
  match s.dioReplies with
  | r :: rest => ({ s with dioReplies := rest }.acceptReply cmd r).endHold
  | [] => s

/-! ### Events and the cycle -/

/-- The Watchdog Timer's interval runs out: an enabled timer gives its hangup signal, which lasts until Disable, and
stays enabled (R321; log entries 14 and 38). -/
def State.timeoutWatchdog (s : State) : State :=
  if s.wdEnabled then { s with wdHangup := true }.signalWired s.cfg.hangupLevel else s

/-- Another port stores a word; integral memory is the CPU's alone (20_memory.md R68, R79). -/
def State.storeByPort (s : State) (addr v : Word) : State :=
  if s.integral addr then s else s.writeWord addr v

/-- One event of the environment (92_eei_decisions.md, "Environment functions and events"). Channels are served, and
channel end is taken, only while the CPU runs (60_exceptions.md R323, R324). An event its rule does not admit has no
effect (log entry 6). -/
def State.apply (s : State) : Event → Result
  | .clockPulse k => .next (s.trigger (counterLevel k))
  | .externalSignal level => .next (if takesExternalSignal level then s.trigger level else s)
  | .powerOff => .next (s.trigger powerOffLevel)
  | .powerLost => .next (s.changePower { s with supply := false })
  | .powerOn => .next s.returnPower
  | .parityFault a => .next { s with parityFaults := a :: s.parityFaults }
  | .portWrite a v => .next (s.storeByPort a v)
  | .service n b bad => if s.running then s.service n b bad else .next s
  | .channelEnd n status => .next (if s.running then s.channelEnd n status else s)
  | .deviceInterrupt n => .next (s.raiseDeviceInterrupt n)
  | .deviceChange d => .next (s.changeDevice d)
  | .dioReply r => .next { s with dioReplies := s.dioReplies ++ [r] }
  | .dioTimeout => .next s.timeoutDio
  | .watchdogTimeout => .next s.timeoutWatchdog
  | .panel action => s.operate action

/-- The events of one boundary, in order. The I/O system's held signal is applied before each, so that a pending device
interrupt has signalled its level before anything can clear it (44_io.md R240; log entry 27). -/
def State.applyAll (s : State) : List Event → Result
  | [] => .next s
  | event :: rest =>
    match s.ioSignal.apply event with
    | .next s1 => s1.applyAll rest
    | .fault f => .fault f
    | .refused r => .refused r

/-- The recognition point before an instruction; there is none before the first one after COMPUTE goes to RUN
(60_exceptions.md R286, 70_reset_and_hazards.md R345). -/
def State.recognitionPoint (s : State) : State :=
  if s.started then s else s.recognize

/-- One pass of the cycle, after the events of the boundary: the I/O system's held signal, recognition, then the wait
or one instruction; nothing without power (60_exceptions.md R294, R324). In a memory parity halt no interrupt is
recognised and no counter counted; the recognition point after the aborted instruction (R286) comes when the halt has been
cleared (DESIGN CHOICE, log entry 45). -/
def State.pass (s : State) : Result :=
  let s0 := s.ioSignal
  match s0.dio with
  | some cmd => .next (s0.awaitReply cmd)
  | none =>
    if !s0.running || s0.parityHalt then .next s0
    else if s0.recognitionPoint.wff then .next s0.recognitionPoint
    else s0.recognitionPoint.instructionStep

/-- A step: the events of the coming boundary, then one pass (60_exceptions.md R294). -/
def State.cycle (s : State) : Result :=
  match s.env with
  | [] => { s with parityFaults := [] }.pass
  | events :: rest =>
    match { s with parityFaults := [], env := rest }.applyAll events with
    | .next s1 => s1.pass
    | .fault f => .fault f
    | .refused r => .refused r

/-- Store an instruction word where the next fetch reads it, and set what lets the next pass fetch it: no boundary
events, power, COMPUTE in RUN, neither waiting, halted nor holding, and no instruction set up in D. -/
def State.placeWord (s : State) (w : Word) : State :=
  { s.writeWord s.p w with
    env := []
    panel := { s.panel with power := true, compute := .run }
    supply := true
    dormant := false
    started := false
    wff := false
    parityHalt := false
    dio := none }

end Sys2Proof.Machine
end

