-- ==== Sys2Proof/Machine/Step.lean ====
section
/-! DEFINITION. The step function, and the placing of one instruction where the step fetches it. -/

namespace Sys2Proof.Machine

open Sys2Proof

/-- One step of the machine (60_exceptions.md R294). -/
def step (s : State) : Host.Outcome State Fault Refusal :=
  s.cycle

/-- The state with the instruction word `w` (numbered as the opcode table numbers its bits) at the address P holds,
ready to be fetched by the next step. Instructions are one word long (30_encoding.md R90). -/
def State.withFetchWord (s : State) (_nbits w : Nat) : State :=
  s.placeWord (BitVec.ofNat 16 w)

end Sys2Proof.Machine
end

