-- ==== Sys2Proof/Safety.lean ====
section
/-! DEFINITION. The terms the claims are stated in: when an instruction is admitted, which instructions are privileged
and which have a memory-reference word, what any instruction may change; and the invariant of the step. -/

namespace Sys2Proof.Machine

open Sys2Proof

/-- The protection rules admit the instruction at H: neither rule 2 nor the rule it is checked for refuses it
(60_exceptions.md R301 to R303). -/
def State.admits (s : State) (check : Check) : Bool :=
  !s.refusesEntry && !s.followProgram.refusesCheck check

/-- The address fields of an instruction of the memory-reference format (30_encoding.md R91). -/
def memRefOf (i : Instr) : Option MemRef :=
  match i with
  | .wd m | .rd m | .shift m | .mul m | .b m | .div m | .lda m | .and m | .add m | .sub m | .ldx m | .cp m | .sta m
  | .im m | .ldxExitForm m => some m
  | .bno _ | .bnc _ | .baz _ | .bix _ | .bxno _ | .bxnc _ | .ben _ | .ban _ => none
  | .copy _ | .rand _ | .randi _ | .randc _ | .ror _ | .rcpy _ | .rori _ | .rcpyi _ | .rorc _ | .rcpyc _ | .reor _
  | .reori _ | .reorc _ | .radd _ | .raddi _ | .raddc _ => none
  | .sio | .tio | .tdv | .hio | .aio | .rdRegister _ | .rdDataSwitches | .rdSaveStatus
  | .rdSaveStatusResetInhibits _ _ | .rdSaveStatusSetInhibits _ _ | .rdDirectIO _ => none
  | .wdRegister _ | .wdTestAndResetBit0 _ | .wdProtectionRegister _ | .wdLoadStatus | .wdWait | .wdExit
  | .wdResetInhibits _ _ | .wdSetInhibits _ _ | .wdInterruptControl001 _ | .wdInterruptControl010 _
  | .wdInterruptControl011 _ | .wdInterruptControl100 _ | .wdInterruptControl101 _ | .wdInterruptControl110 _
  | .wdInterruptControl111 _ | .wdWatchdogDisable | .wdWatchdogEnable | .wdWatchdogResetTimer | .wdDirectIO _ => none

/-- The effective address, if the instruction has one, can be computed: its indirect-address read meets no parity error
that stops the CPU (60_exceptions.md R312). -/
def State.addresses (s : State) (i : Instr) : Prop :=
  ∀ m, memRefOf i = some m → ∃ ea, s.effectiveAddress m = .ok ea

/-- READ DIRECT and WRITE DIRECT in all their functions (43_direct_control.md R190). -/
def isPrivileged (i : Instr) : Bool :=
  match i with
  | .shift _ | .mul _ | .b _ | .div _ | .lda _ | .and _ | .add _ | .sub _ | .ldx _ | .cp _ | .sta _ | .im _
  | .ldxExitForm _ => false
  | .bno _ | .bnc _ | .baz _ | .bix _ | .bxno _ | .bxnc _ | .ben _ | .ban _ => false
  | .copy _ | .rand _ | .randi _ | .randc _ | .ror _ | .rcpy _ | .rori _ | .rcpyi _ | .rorc _ | .rcpyc _ | .reor _
  | .reori _ | .reorc _ | .radd _ | .raddi _ | .raddc _ => false
  | .wd _ | .rd _ => true
  | .sio | .tio | .tdv | .hio | .aio | .rdRegister _ | .rdDataSwitches | .rdSaveStatus
  | .rdSaveStatusResetInhibits _ _ | .rdSaveStatusSetInhibits _ _ | .rdDirectIO _ => true
  | .wdRegister _ | .wdTestAndResetBit0 _ | .wdProtectionRegister _ | .wdLoadStatus | .wdWait | .wdExit
  | .wdResetInhibits _ _ | .wdSetInhibits _ _ | .wdInterruptControl001 _ | .wdInterruptControl010 _
  | .wdInterruptControl011 _ | .wdInterruptControl100 _ | .wdInterruptControl101 _ | .wdInterruptControl110 _
  | .wdInterruptControl111 _ | .wdWatchdogDisable | .wdWatchdogEnable | .wdWatchdogResetTimer | .wdDirectIO _ => true

/-- `s` with what any instruction may change taken from `t`: P, PP, and what a refused or aborted instruction changes,
the interrupt level it triggers, the wait flip-flop and the memory parity halt (60_exceptions.md R304, R306, R311,
R312). A frame says that `t` is this state but for the instruction's own destinations. -/
def State.carried (s t : State) : State :=
  { s with
    p := t.p
    pp := t.pp
    levels := t.levels
    wff := t.wff
    parityHalt := t.parityHalt
    parityIndicator := t.parityIndicator
    parityAddress := t.parityAddress }

/-- `t` is `s` with one interrupt signal given to `level`: an armed level is waiting, and nothing else differs
(60_exceptions.md R281). -/
def State.signalled (s : State) (level : Level) (t : State) : Prop :=
  t = { s with levels := t.levels } ∧
    ∀ k : Level, t.level k =
      if k = level ∧ (s.level k).state = .armed then { s.level k with state := .waiting } else s.level k

/-- `t` is `s` with the I/O level's held signal applied: the signal of level X'106' if any device has an interrupt
pending, and nothing else (44_io.md R240). -/
def State.lineApplied (s t : State) : Prop :=
  if s.devices.any fun d => d.pending then s.signalled ioLevel t else t = s

/-- `t` is `s` after the end of an instruction: the first-instruction hold is cleared, and a response failure that was
due signals the level wired to it, if that level is installed (60_exceptions.md R289, R321). -/
def State.completed (s t : State) : Prop :=
  match s.dioFailure, s.cfg.dioFailureLevel with
  | true, some level =>
    if takesExternalSignal level = true ∧ installed s.cfg level = true
    then { s with hold := false, dioFailure := false }.signalled level t
    else t = { s with hold := false, dioFailure := false }
  | true, none => t = { s with hold := false, dioFailure := false }
  | false, _ => t = { s with hold := false }

/-- The invariant. What a configuration leaves out keeps no state: no byte beyond `MemWords` (20_memory.md R63), no
state of an uninstalled level (60_exceptions.md R276), no PP and no protection register without the option
(10_state.md R25, R27), no direct I/O in progress and no running timer without their features. Counter levels are
never active between steps (60_exceptions.md R292), and the override levels are always armed or further and always
enabled (60_exceptions.md R273). A held direct I/O command has no answer waiting (43_direct_control.md R222) and ends
with the power (log entry 39). COMPUTE in IDLE keeps WFF reset (10_state.md R34). Device numbers are distinct, a single device has the condition of its controller, and
the units of one controller agree on its condition (44_io.md R231, R247). -/
structure State.Inv (s : State) : Prop where
  mem_canonical : s.mem.wf = true
  mem_exists : ∀ cell ∈ s.mem, cell.1 < 2 * memWords s.cfg
  counters_inactive : ∀ k : Fin 4, (s.level (counterLevel k)).state ≠ .active
  override_armed : ∀ level : Level, overrideInstalled s.cfg level = true →
    (s.level level).state ≠ .disarmed ∧ (s.level level).enabled = true
  uninstalled_quiet : ∀ level : Level, installed s.cfg level = false →
    (s.level level).state = .disarmed ∧ (s.level level).enabled = false
  pp_option : s.pp = true → s.cfg.hasProtection = true
  pr_option : s.cfg.hasProtection = false → s.pr = Vector.replicate 16 0
  dio_option : s.dio.isSome = true → s.cfg.hasDio = true
  watchdog_option : s.wdEnabled = true → s.cfg.hasWatchdog = true
  dio_unanswered : s.dio.isSome = true → s.dioReplies = []
  idle_not_waiting : s.idle = true → s.wff = false
  dio_powered : s.dio.isSome = true → s.powered = true
  devices_distinct : (s.devices.map fun d => d.number).Nodup
  single_controller : ∀ d ∈ s.devices, isMultiunit d.number = false → d.controller = d.condition
  shared_controller : ∀ d ∈ s.devices, ∀ k ∈ s.devices, sameController d.number k.number = true →
    d.controller = k.controller

end Sys2Proof.Machine
end

