-- ==== Sys2Proof/WellFormed.lean ====
section
/-! DEFINITION. Which terms of `Instr` are instructions: each word belongs to its most specific row
(30_encoding.md R100), and a direct I/O function has an effective address of modes 2 to F (43_direct_control.md R222). -/

namespace Sys2Proof

/-- R, I, X and S are all 0, so that the effective address is the displacement (30_encoding.md R97). -/
def MemRef.direct (m : MemRef) : Bool :=
  !m.r && !m.i && !m.x && !m.s

/-- The I and E bits of an inhibit function may vary; bits 14 and 15 are 0 (R191, R200). -/
def isInhibitFunction (d : Byte) : Bool :=
  d ∈ [0xE0#8, 0xE4#8, 0xE8#8, 0xEC#8, 0xF0#8, 0xF4#8, 0xF8#8, 0xFC#8]

/-- The function bytes of Table 3 (43_direct_control.md R191). -/
def isRdFunctionByte (d : Byte) : Bool :=
  d.toNat < 0x40 || d ∈ [0x41#8, 0x42#8, 0x44#8, 0x48#8, 0x50#8, 0x80#8, 0xC0#8] || isInhibitFunction d

/-- The function bytes of Table 4 (43_direct_control.md R200). -/
def isWdFunctionByte (d : Byte) : Bool :=
  d.toNat < 0x90 || d ∈ [0xC0#8, 0xD0#8, 0xD8#8] || isInhibitFunction d

/-- The settings of Op, AC, AI and CD that have a mnemonic (42_copy.md R167 to R182). -/
def isNamedCopySetting (op : CopyOp) (ac ai cd : Bool) : Bool :=
  !(ac && ai) && (!cd || op == .lor)

/-- The external modes, effective address bits 0-3 from 0010 to 1111 (43_direct_control.md R222). -/
def isExternalMode (ea : Word) : Bool :=
  0x2000 ≤ ea.toNat

/-- The checks of well-formedness, row by row. -/
def Instr.wellFormed : Instr → Bool
  | .rd m => !(m.direct && isRdFunctionByte m.d)
  | .wd m => !(m.direct && isWdFunctionByte m.d)
  | .copy f => !isNamedCopySetting f.op f.ac f.ai f.cd
  | .rdDirectIO ea => isExternalMode ea
  | .wdDirectIO ea => isExternalMode ea
  | .shift _ | .mul _ | .b _ | .div _ | .lda _ | .and _ | .add _ | .sub _ | .ldx _ | .cp _ | .sta _ | .im _
  | .ldxExitForm _ => true
  | .bno _ | .bnc _ | .baz _ | .bix _ | .bxno _ | .bxnc _ | .ben _ | .ban _ => true
  | .rand _ | .randi _ | .randc _ | .ror _ | .rcpy _ | .rori _ | .rcpyi _ | .rorc _ | .rcpyc _ | .reor _ | .reori _
  | .reorc _ | .radd _ | .raddi _ | .raddc _ => true
  | .sio | .tio | .tdv | .hio | .aio => true
  | .rdRegister _ | .rdDataSwitches | .rdSaveStatus | .rdSaveStatusResetInhibits _ _
  | .rdSaveStatusSetInhibits _ _ => true
  | .wdRegister _ | .wdTestAndResetBit0 _ | .wdProtectionRegister _ | .wdLoadStatus | .wdWait | .wdExit
  | .wdResetInhibits _ _ | .wdSetInhibits _ _ => true
  | .wdInterruptControl001 _ | .wdInterruptControl010 _ | .wdInterruptControl011 _ | .wdInterruptControl100 _
  | .wdInterruptControl101 _ | .wdInterruptControl110 _ | .wdInterruptControl111 _ => true
  | .wdWatchdogDisable | .wdWatchdogEnable | .wdWatchdogResetTimer => true

end Sys2Proof
end

