-- ==== Sys2Proof/Certificates/Slice0/Obligations.lean ====
section
/-! DEFINITION. The statements for the provers. Each docstring names the rules of spec/ a statement formalises, or the
log entry of a choice of the model it rests on. Throughout, H is `regH`, the address of the instruction being executed,
and P is `p`, which holds H + 1 while it executes (10_state.md R23). -/

open Sys2Proof Sys2Proof.Machine

/-! ### Encoding -/

/-- Decoding gives back every well-formed instruction that has a word of its own, with every operand
(30_encoding.md R91, R95, R96, R100). -/
def Obligations.DecodeUndoesEncode : Prop :=
  ∀ (i : Instr) (w : Word), i.wellFormed = true → encode i = some w → decodeWord w = i

/-- Every one of the 65,536 words is a well-formed instruction, and its encoding is that word: there is no undefined
operation code and no bit is dropped (30_encoding.md R99, R100). -/
def Obligations.EncodeUndoesDecode : Prop :=
  ∀ w : Word, (decodeWord w).wellFormed = true ∧ encode (decodeWord w) = some w

/-- The effective addresses of RD and WD and the functions they select determine one another
(43_direct_control.md R191, R200, R210, R221, R222). -/
def Obligations.DirectControlAddressesAgree : Prop :=
  (∀ f : RdFunction, f.instr.wellFormed = true → decodeRd f.ea = some f) ∧
  (∀ (ea : Word) (f : RdFunction), decodeRd ea = some f → f.ea = ea ∧ f.instr.wellFormed = true) ∧
  (∀ f : WdFunction, f.instr.wellFormed = true → decodeWd f.ea = some f) ∧
  (∀ (ea : Word) (f : WdFunction), decodeWd ea = some f → f.ea = ea ∧ f.instr.wellFormed = true)

/-- Words of the spec's own examples decode to the instructions they stand for (40_memory_reference.md R131,
41_conditional_branch.md R150, 42_copy.md R183, 43_direct_control.md R193, R206). -/
def Obligations.ExampleWordsDecode : Prop :=
  decodeWord 0x4810#16 = .b { r := true, i := false, x := false, s := false, d := 0x10 } ∧
  decodeWord 0x61F0#16 = .bno 0x1F0#9 ∧
  decodeWord 0x75A1#16 = .rcpyi { dr := .l, inv := false, sr := .p } ∧
  decodeWord 0x1041#16 = .sio ∧
  decodeWord 0x00D8#16 = .wdExit ∧
  decodeWord 0xC9F0#16 = .ldx { r := true, i := false, x := false, s := true, d := 0xF0 }

/-- The effective address, in the three steps of 30_encoding.md R93, all sums modulo 2^16; a nine-bit displacement with
its sign set counts from H - 256. -/
def Obligations.EffectiveAddressInThreeSteps : Prop :=
  ∀ (s : State) (m : MemRef),
    (s.referenceAddress m).toNat =
      (if m.r then s.regH.toNat + (if m.s then 0x10000 - 0x100 + m.d.toNat else m.d.toNat)
       else if m.s then m.d.toNat + s.x2.toNat else m.d.toNat) % 0x10000 ∧
    (m.i = false →
      s.effectiveAddress m = .ok (if m.x then s.referenceAddress m + s.x1 else s.referenceAddress m)) ∧
    (∀ w : Word, m.i = true → s.checkedRead (s.referenceAddress m) = .ok w →
      s.effectiveAddress m = .ok (if m.x then s.readWord (s.referenceAddress m) + s.x1
        else s.readWord (s.referenceAddress m)))

/-! ### Memory-reference instructions -/

/-- LDA and LDX load the effective word, AND the logical product; nothing but their register and PP changes
(40_memory_reference.md R121, R123, R129). -/
def Obligations.LoadsAndLogicalProduct : Prop :=
  ∀ (s : State) (m : MemRef) (ea w : Word),
    s.effectiveAddress m = .ok ea → s.checkedRead ea = .ok w → s.admits .plain = true →
    exec (.lda m) s = .next { s with pp := s.protectedAddress s.regH, a := s.readWord ea } ∧
    exec (.and m) s = .next { s with pp := s.protectedAddress s.regH, a := s.a &&& s.readWord ea } ∧
    (s.exitCondition = false →
      exec (.ldx m) s = .next { s with pp := s.protectedAddress s.regH, x1 := s.readWord ea })

/-- STA stores A: the word reads back, and at a nonexistent location nothing happens; no indicator changes. From
unprotected into protected memory it is refused (40_memory_reference.md R122; 20_memory.md R63). -/
def Obligations.StoreAccumulatorStores : Prop :=
  ∀ (s : State) (m : MemRef) (ea : Word), s.effectiveAddress m = .ok ea →
    (s.mem.wf = true → s.admits (.store ea) = true →
      ∃ t, exec (.sta m) s = .next t ∧ t = { s with pp := s.protectedAddress s.regH, mem := t.mem } ∧
        (s.hasLocation ea = true → t.readWord ea = s.a) ∧
        (s.hasLocation ea = false → t.mem = s.mem) ∧
        ∀ addr : Word, addr ≠ ea → t.readWord addr = s.readWord addr) ∧
    (s.operative = true → s.violationsInhibited = false → s.protectedAddress s.regH = false →
      s.protectedAddress ea = true →
      ∃ t, exec (.sta m) s = .next t ∧ { s with p := s.regH, pp := false }.signalled protectionLevel t)

/-- LDX next after WD X'00D8' restores the environment: the indicators from bits 8, 10, 11, 14, 15 of the first word of
the effective doubleword, P from the second, the highest-priority active level is armed, and the exit condition is
reset; index register 1 is not affected. PP is held 0 while the protection system is not operative
(40_memory_reference.md R124, 60_exceptions.md R290, R300). -/
def Obligations.ExitFormRestoresTheEnvironment : Prop :=
  ∀ (s : State) (m : MemRef) (i : Instr) (ea w0 w1 : Word),
    (i = .ldx m ∧ s.exitCondition = true ∨ i = .ldxExitForm m) →
    s.effectiveAddress m = .ok ea → s.checkedRead ea = .ok w0 → s.checkedRead (ea + 1) = .ok w1 →
    s.admits .plain = true →
    ∃ t, exec i s = .next t ∧
      t = { s with
        pp := s.operative && (s.readWord ea).bit 8
        ii := (s.readWord ea).bit 10
        ei := (s.readWord ea).bit 11
        o := (s.readWord ea).bit 14
        c := (s.readWord ea).bit 15
        p := s.readWord (ea + 1)
        exitCondition := false
        levels := t.levels } ∧
      ∀ level : Level, t.level level =
        if s.highestActive = some level then { s.level level with state := .armed } else s.level level

/-- ADD: the sum modulo 2^16, C the carry out of the sign position, O true signed overflow (40_memory_reference.md
R125, 10_state.md R32). -/
def Obligations.AddAddsWithCarryAndOverflow : Prop :=
  ∀ (s : State) (m : MemRef) (ea w : Word),
    s.effectiveAddress m = .ok ea → s.checkedRead ea = .ok w → s.admits .plain = true →
    exec (.add m) s = .next { s with
      pp := s.protectedAddress s.regH
      a := s.a + w
      o := decide (s.a.toInt + w.toInt < -0x8000 ∨ 0x7FFF < s.a.toInt + w.toInt)
      c := decide (0x10000 ≤ s.a.toNat + w.toNat) }

/-- SUB: the difference modulo 2^16, C exactly when no borrow is needed, O true signed overflow
(40_memory_reference.md R126, 90_conflicts.md C2). -/
def Obligations.SubtractSetsCarryWithoutBorrow : Prop :=
  ∀ (s : State) (m : MemRef) (ea w : Word),
    s.effectiveAddress m = .ok ea → s.checkedRead ea = .ok w → s.admits .plain = true →
    exec (.sub m) s = .next { s with
      pp := s.protectedAddress s.regH
      a := s.a - w
      o := decide (s.a.toInt - w.toInt < -0x8000 ∨ 0x7FFF < s.a.toInt - w.toInt)
      c := decide (w.toNat ≤ s.a.toNat) }

/-- MUL with the option: E and A take the exact signed product as a doubleword, C its sign; O is not written. Without
the option the multiply exception level is signalled, P goes back to the instruction and nothing else happens
(40_memory_reference.md R127). -/
def Obligations.MultiplyGivesTheExactProduct : Prop :=
  ∀ (s : State) (m : MemRef) (ea : Word), s.effectiveAddress m = .ok ea → s.admits .plain = true →
    (∀ w, s.checkedRead ea = .ok w → s.cfg.hasMulDiv = true →
      ∃ t, exec (.mul m) s = .next t ∧
        t = { s with pp := s.protectedAddress s.regH, e := t.e, a := t.a, c := t.c } ∧
        (t.e ++ t.a : BitVec 32).toInt = s.a.toInt * w.toInt ∧
        t.c = decide (s.a.toInt * w.toInt < 0)) ∧
    (s.cfg.hasMulDiv = false →
      ∃ t, exec (.mul m) s = .next t ∧
        { s with p := s.regH, pp := s.protectedAddress s.regH }.signalled multiplyLevel t)

/-- DIV with the option, for the truncated quotient `q` and the remainder `r` of the dividend: a quotient of magnitude
2^15 or more, and a zero divisor, are the overflow case. C after a zero remainder is `DivZeroRemCarry`
(40_memory_reference.md R128, 92_eei_decisions.md D4, 93_implementation_defined.md U10). -/
def Obligations.DivideTruncatesOrOverflows : Prop :=
  ∀ (s : State) (m : MemRef) (ea w : Word) (n q r : Int),
    s.effectiveAddress m = .ok ea → s.checkedRead ea = .ok w → s.admits .plain = true → s.cfg.hasMulDiv = true →
    n = (s.e ++ s.a : BitVec 32).toInt →
    (w.toInt = 0 ∨ (n = q * w.toInt + r ∧ r.natAbs < w.toInt.natAbs ∧ (r = 0 ∨ (r < 0 ↔ n < 0)))) →
    exec (.div m) s = .next (
      if w.toInt = 0 ∨ 0x8000 ≤ q.natAbs then
        { s with pp := s.protectedAddress s.regH, o := true, c := decide (n < 0) }
      else
        { s with
          pp := s.protectedAddress s.regH
          o := false
          a := BitVec.ofInt 16 q
          e := BitVec.ofInt 16 r
          c := if r = 0 ∧ s.cfg.divZeroRemCarry = .dividendSign then decide (n < 0) else decide (r < 0) })

/-- IM: the effective location takes the effective word plus 1; O only for X'8000', C only for X'0000'; A is not
changed. From unprotected into protected memory it is refused, and O and C keep their values (40_memory_reference.md
R130). -/
def Obligations.IncrementMemoryIncrements : Prop :=
  ∀ (s : State) (m : MemRef) (ea : Word), s.effectiveAddress m = .ok ea →
    (∀ w, s.mem.wf = true → s.checkedRead ea = .ok w → s.admits (.store ea) = true →
      ∃ t, exec (.im m) s = .next t ∧
        t = { s with
          pp := s.protectedAddress s.regH
          mem := t.mem
          o := decide ((w.toNat + 1) % 0x10000 = 0x8000)
          c := decide ((w.toNat + 1) % 0x10000 = 0) } ∧
        (s.hasLocation ea = true → (t.readWord ea).toNat = (w.toNat + 1) % 0x10000) ∧
        (s.hasLocation ea = false → t.mem = s.mem) ∧
        ∀ addr : Word, addr ≠ ea → t.readWord addr = s.readWord addr) ∧
    (s.operative = true → s.violationsInhibited = false → s.protectedAddress s.regH = false →
      s.protectedAddress ea = true →
      ∃ t, exec (.im m) s = .next t ∧ { s with p := s.regH, pp := false }.signalled protectionLevel t)

/-- S, by the kind in bits 8 to 10 and the count in bits 11 to 15 of the effective address, on A alone (E is untouched)
or on E and A as one register of 32 bits, E on the left: O is set when the sign position changed at some step of an
arithmetic left shift, C when an odd number of ones left the sign position of a left shift (40_memory_reference.md
R132). -/
def Obligations.ShiftsFollowTheSpecification : Prop :=
  (∀ (s : State) (m : MemRef) (ea : Word), s.effectiveAddress m = .ok ea → s.admits .plain = true →
    ea.bit 8 = false →
    (ea.bit 9 = false → ea.bit 10 = false → exec (.shift m) s = .next { s with
      pp := s.protectedAddress s.regH, a := s.a.sshiftRight (ea.toNat % 32), o := false, c := false }) ∧
    (ea.bit 9 = false → ea.bit 10 = true → exec (.shift m) s = .next { s with
      pp := s.protectedAddress s.regH
      a := s.a <<< (ea.toNat % 32)
      o := (List.range (ea.toNat % 32 + 1)).any fun k => (s.a <<< k).msb != s.a.msb
      c := decide (((List.range (ea.toNat % 32)).countP fun k => (s.a <<< k).msb) % 2 = 1) }) ∧
    (ea.bit 9 = true → ea.bit 10 = false → exec (.shift m) s = .next { s with
      pp := s.protectedAddress s.regH, a := s.a.rotateRight (ea.toNat % 32), o := false, c := false }) ∧
    (ea.bit 9 = true → ea.bit 10 = true → exec (.shift m) s = .next { s with
      pp := s.protectedAddress s.regH
      a := s.a.rotateLeft (ea.toNat % 32)
      o := false
      c := decide (((List.range (ea.toNat % 32)).countP fun k => (s.a.rotateLeft k).msb) % 2 = 1) })) ∧
  (∀ (s : State) (m : MemRef) (ea : Word) (v : BitVec 32), s.effectiveAddress m = .ok ea → s.admits .plain = true →
    ea.bit 8 = true → v = s.e ++ s.a →
    ∃ t, exec (.shift m) s = .next t ∧
      t = { s with pp := s.protectedAddress s.regH, e := t.e, a := t.a, o := t.o, c := t.c } ∧
      (ea.bit 9 = false → ea.bit 10 = false →
        (t.e ++ t.a : BitVec 32) = v.sshiftRight (ea.toNat % 32) ∧ t.o = false ∧ t.c = false) ∧
      (ea.bit 9 = false → ea.bit 10 = true →
        (t.e ++ t.a : BitVec 32) = v <<< (ea.toNat % 32) ∧
        t.o = ((List.range (ea.toNat % 32 + 1)).any fun k => (v <<< k).msb != v.msb) ∧
        t.c = decide (((List.range (ea.toNat % 32)).countP fun k => (v <<< k).msb) % 2 = 1)) ∧
      (ea.bit 9 = true → ea.bit 10 = false →
        (t.e ++ t.a : BitVec 32) = v.rotateRight (ea.toNat % 32) ∧ t.o = false ∧ t.c = false) ∧
      (ea.bit 9 = true → ea.bit 10 = true →
        (t.e ++ t.a : BitVec 32) = v.rotateLeft (ea.toNat % 32) ∧ t.o = false ∧
        t.c = decide (((List.range (ea.toNat % 32)).countP fun k => (v.rotateLeft k).msb) % 2 = 1)))

/-- CP: O and C record the signed comparison, exactly; A is not changed (40_memory_reference.md R133). -/
def Obligations.CompareRecordsTheSignedOrder : Prop :=
  ∀ (s : State) (m : MemRef) (ea w : Word),
    s.effectiveAddress m = .ok ea → s.checkedRead ea = .ok w → s.admits .plain = true →
    exec (.cp m) s = .next { s with
      pp := s.protectedAddress s.regH
      o := decide (w.toInt ≤ s.a.toInt)
      c := decide (w.toInt = s.a.toInt) }

/-! ### Branches -/

/-- B loads P with the effective address; BNO, BNC, BAZ, BEN, BAN load it with H plus the nine-bit signed displacement
if the condition holds, and leave it at the next address in sequence otherwise (40_memory_reference.md R131,
41_conditional_branch.md R150 to R155). -/
def Obligations.BranchesLoadTheProgramAddress : Prop :=
  (∀ (s : State) (m : MemRef) (ea : Word), s.effectiveAddress m = .ok ea → s.admits .plain = true →
    exec (.b m) s = .next { s with pp := s.protectedAddress s.regH, p := ea }) ∧
  (∀ (s : State) (disp : BitVec 9), s.admits .plain = true →
    exec (.bno disp) s = .next { s with
      pp := s.protectedAddress s.regH, p := if s.o = false then s.regH + disp.signExtend 16 else s.p } ∧
    exec (.bnc disp) s = .next { s with
      pp := s.protectedAddress s.regH, p := if s.c = false then s.regH + disp.signExtend 16 else s.p } ∧
    exec (.baz disp) s = .next { s with
      pp := s.protectedAddress s.regH, p := if s.a = 0 then s.regH + disp.signExtend 16 else s.p } ∧
    exec (.ben disp) s = .next { s with
      pp := s.protectedAddress s.regH, p := if s.e.toInt < 0 then s.regH + disp.signExtend 16 else s.p } ∧
    exec (.ban disp) s = .next { s with
      pp := s.protectedAddress s.regH, p := if s.a.toInt < 0 then s.regH + disp.signExtend 16 else s.p })

/-- BIX, BXNO, BXNC: X1 is incremented modulo 2^16 and the branch is taken unless it became zero; BXNO with O set and
BXNC with C set do neither; no indicator changes (41_conditional_branch.md R156 to R158). -/
def Obligations.IndexBranchesCount : Prop :=
  ∀ (s : State) (disp : BitVec 9) (counted : State), s.admits .plain = true →
    counted = { s with
      pp := s.protectedAddress s.regH
      x1 := s.x1 + 1
      p := if s.x1.toNat = 0xFFFF then s.p else s.regH + disp.signExtend 16 } →
    exec (.bix disp) s = .next counted ∧
    exec (.bxno disp) s = .next (if s.o then { s with pp := s.protectedAddress s.regH } else counted) ∧
    exec (.bxnc disp) s = .next (if s.c then { s with pp := s.protectedAddress s.regH } else counted)

/-! ### The copy instruction -/

/-- The twelve copies of a logical operation: the destination takes the result, plus 1 in the forms with I, plus the
carry indicator in the forms with C, modulo 2^16; O and C are not affected. Register 0 reads as zero and discards the
result, and no register but the destination changes (42_copy.md R167, R169 to R172, R174 to R177, R179 to R181;
10_state.md R21). -/
def Obligations.LogicalCopies : Prop :=
  (∀ (s s1 : State) (f : CopyOperands) (src k : Word), s.admits .plain = true →
    s1 = { s with pp := s.protectedAddress s.regH } → src = (if f.inv then ~~~ s.gpr f.sr else s.gpr f.sr) →
    k = (if s.c then 1 else 0) →
    exec (.rcpy f) s = .next (s1.setGpr f.dr src) ∧
    exec (.ror f) s = .next (s1.setGpr f.dr (s.gpr f.dr ||| src)) ∧
    exec (.reor f) s = .next (s1.setGpr f.dr (s.gpr f.dr ^^^ src)) ∧
    exec (.rand f) s = .next (s1.setGpr f.dr (s.gpr f.dr &&& src)) ∧
    exec (.rcpyi f) s = .next (s1.setGpr f.dr (src + 1)) ∧
    exec (.rori f) s = .next (s1.setGpr f.dr ((s.gpr f.dr ||| src) + 1)) ∧
    exec (.reori f) s = .next (s1.setGpr f.dr ((s.gpr f.dr ^^^ src) + 1)) ∧
    exec (.randi f) s = .next (s1.setGpr f.dr ((s.gpr f.dr &&& src) + 1)) ∧
    exec (.rcpyc f) s = .next (s1.setGpr f.dr (src + k)) ∧
    exec (.rorc f) s = .next (s1.setGpr f.dr ((s.gpr f.dr ||| src) + k)) ∧
    exec (.reorc f) s = .next (s1.setGpr f.dr ((s.gpr f.dr ^^^ src) + k)) ∧
    exec (.randc f) s = .next (s1.setGpr f.dr ((s.gpr f.dr &&& src) + k))) ∧
  (∀ (s : State) (r k : Gpr) (v : Word),
    s.gpr .z = 0 ∧ s.setGpr .z v = s ∧ (r ≠ .z → (s.setGpr r v).gpr r = v) ∧ (k ≠ r → (s.setGpr r v).gpr k = s.gpr k))

/-- RADD, RADDI, RADDC: the sum of destination, source and increment; C is the carry out of the sum, O its signed
overflow, both also when register 0 discards the result (42_copy.md R165, R168, R173, R178). -/
def Obligations.AddingCopies : Prop :=
  ∀ (s : State) (f : CopyOperands) (i : Instr) (inc : Bool) (dst src : Word), s.admits .plain = true →
    (i = .radd f ∧ inc = false ∨ i = .raddi f ∧ inc = true ∨ i = .raddc f ∧ inc = s.c) →
    src = (if f.inv then ~~~ s.gpr f.sr else s.gpr f.sr) → dst = s.gpr f.dr →
    exec i s = .next { s.setGpr f.dr (BitVec.ofNat 16 (dst.toNat + src.toNat + inc.toNat)) with
      pp := s.protectedAddress s.regH
      o := decide (dst.toInt + src.toInt + inc.toNat < -0x8000 ∨ 0x7FFF < dst.toInt + src.toInt + inc.toNat)
      c := decide (0x10000 ≤ dst.toNat + src.toNat + inc.toNat) }

/-- The copy instruction in any setting of its fields, the unnamed ones among them: CD clears the destination operand,
AI adds 1 whatever the carry is, AC alone adds the carry (42_copy.md R165, R182). -/
def Obligations.EveryCopySettingFollowsTheFields : Prop :=
  ∀ (s : State) (op : CopyOp) (ac ai cd : Bool) (f : CopyOperands) (dst src : Word) (inc : Nat),
    s.admits .plain = true →
    src = (if f.inv then ~~~ s.gpr f.sr else s.gpr f.sr) → dst = (if cd then 0 else s.gpr f.dr) →
    inc = (if ai then 1 else if ac && s.c then 1 else 0) →
    exec (.copy { op := op, ac := ac, ai := ai, cd := cd, operands := f }) s = .next (
      match op with
      | .land => { s.setGpr f.dr ((dst &&& src) + BitVec.ofNat 16 inc) with pp := s.protectedAddress s.regH }
      | .lor => { s.setGpr f.dr ((dst ||| src) + BitVec.ofNat 16 inc) with pp := s.protectedAddress s.regH }
      | .lxor => { s.setGpr f.dr ((dst ^^^ src) + BitVec.ofNat 16 inc) with pp := s.protectedAddress s.regH }
      | .add =>
        { s.setGpr f.dr (BitVec.ofNat 16 (dst.toNat + src.toNat + inc)) with
          pp := s.protectedAddress s.regH
          o := decide (dst.toInt + src.toInt + inc < -0x8000 ∨ 0x7FFF < dst.toInt + src.toInt + inc)
          c := decide (0x10000 ≤ dst.toNat + src.toNat + inc) })

/-! ### Direct control -/

/-- RD register reads a general register (register 0 as zero) or an installed I/O channel register into A; RD data
switches reads the DATA switches; O and C are unchanged (43_direct_control.md R192, R197). -/
def Obligations.ReadDirectReadsRegisters : Prop :=
  ∀ (s : State) (r : Gpr) (k : Nat), s.admits .privileged = true → k < 2 * ioChannels s.cfg →
    exec (.rdRegister (0#3 ++ r.bits)) s = .next { s with pp := s.protectedAddress s.regH, a := s.gpr r } ∧
    exec (.rdRegister (BitVec.ofNat 6 (8 + k))) s =
      .next { s with pp := s.protectedAddress s.regH, a := s.channel k } ∧
    exec .rdDataSwitches s = .next { s with pp := s.protectedAddress s.regH, a := s.panel.data }

/-- WD register loads a general register (register 0 discards the value, register 1 is a branch) or an installed I/O
channel register from A; a channel register reads back what was loaded and the others stay; WD test and reset bit 0
copies the register's bit 0 to O and clears it, C unchanged (43_direct_control.md R201, R202). -/
def Obligations.WriteDirectLoadsRegisters : Prop :=
  (∀ (s s1 : State) (r : Gpr) (k : Nat), s.admits .privileged = true → k < 2 * ioChannels s.cfg →
    s1 = { s with pp := s.protectedAddress s.regH } →
    exec (.wdRegister (0#3 ++ r.bits)) s = .next (s1.setGpr r s.a) ∧
    exec (.wdRegister (BitVec.ofNat 6 (8 + k))) s = .next (s1.setChannel k s.a) ∧
    exec (.wdTestAndResetBit0 (0#3 ++ r.bits)) s =
      .next { s1.setGpr r (s.gpr r &&& 0x7FFF#16) with o := (s.gpr r).msb } ∧
    exec (.wdTestAndResetBit0 (BitVec.ofNat 6 (8 + k))) s =
      .next { s1.setChannel k (s.channel k &&& 0x7FFF#16) with o := (s.channel k).msb }) ∧
  (∀ (s : State) (k j : Nat) (v : Word), k < 40 →
    (s.setChannel k v).channel j = (if j = k then v else s.channel j) ∧
    s.setChannel k v = { s with ch := (s.setChannel k v).ch })

/-- The status functions of RD: A takes PP in bit 8, II in 10, EI in 11, O in 14, C in 15 and zeros elsewhere, as they
were before; then the selected inhibits are reset or set (43_direct_control.md R194, R195, R196). -/
def Obligations.ReadDirectSavesStatus : Prop :=
  ∀ (s : State) (i e : Bool), s.admits .privileged = true →
    ∃ w : Word,
      (∀ k : Fin 16, w.bit k = (match k.val with
        | 8 => s.protectedAddress s.regH
        | 10 => s.ii
        | 11 => s.ei
        | 14 => s.o
        | 15 => s.c
        | _ => false)) ∧
      exec .rdSaveStatus s = .next { s with pp := s.protectedAddress s.regH, a := w } ∧
      exec (.rdSaveStatusResetInhibits i e) s = .next { s with
        pp := s.protectedAddress s.regH, a := w, ii := if i then false else s.ii, ei := if e then false else s.ei } ∧
      exec (.rdSaveStatusSetInhibits i e) s = .next { s with
        pp := s.protectedAddress s.regH, a := w, ii := if i then true else s.ii, ei := if e then true else s.ei }

/-- WD load status, wait, exit, reset inhibits and set inhibits (43_direct_control.md R204 to R208; PP is held 0 while
the protection system is not operative, 60_exceptions.md R300). -/
def Obligations.WriteDirectSetsStatus : Prop :=
  ∀ (s : State) (i e : Bool), s.admits .privileged = true →
    exec .wdLoadStatus s = .next { s with
      pp := s.operative && s.a.bit 8, ii := s.a.bit 10, ei := s.a.bit 11, o := s.a.bit 14, c := s.a.bit 15 } ∧
    exec .wdWait s = .next { s with pp := s.protectedAddress s.regH, wff := true } ∧
    exec .wdExit s = .next { s with pp := s.protectedAddress s.regH, exitCondition := true } ∧
    exec (.wdResetInhibits i e) s = .next { s with
      pp := s.protectedAddress s.regH, ii := if i then false else s.ii, ei := if e then false else s.ei } ∧
    exec (.wdSetInhibits i e) s = .next { s with
      pp := s.protectedAddress s.regH, ii := if i then true else s.ii, ei := if e then true else s.ei }

/-- WD protection register: with the option, and whether or not the system is operative, register `r` takes A and the
others stay; from then on the protection bit of an address is the bit of A its second hexadecimal digit selects; without
the option nothing happens (43_direct_control.md R203,
10_state.md R25, 92_eei_decisions.md D32). -/
def Obligations.ProtectionRegistersLoad : Prop :=
  ∀ (s : State) (r : BitVec 4), s.admits .privileged = true →
    ∃ t, exec (.wdProtectionRegister r) s = .next t ∧
      t = { s with pp := s.protectedAddress s.regH, pr := t.pr } ∧
      (s.cfg.hasProtection = false → t.pr = s.pr) ∧
      (s.cfg.hasProtection = true → ∀ k : Fin 16, t.pr[k] = if k.val = r.toNat then s.a else s.pr[k]) ∧
      (s.operative = true → ∀ addr : Word, t.protectedAddress addr =
        if addr.toNat / 0x1000 = r.toNat then s.a.bit (addr.toNat / 0x100 % 16) else s.protectedAddress addr)

/-- WD in interrupt control mode, code by code, on every installed level that the accumulator selects in the group; no
other level changes, and no register or indicator does. The levels that bits and groups select are those of Table 2, by
their locations (43_direct_control.md R211 to R217, R219, R223). -/
def Obligations.InterruptControlActsOnSelectedLevels : Prop :=
  (∀ (s : State) (g : BitVec 4) (i : Instr) (act : Bool → LevelCell → LevelCell), s.admits .privileged = true →
    (i = .wdInterruptControl001 g ∧ act = (fun sel cell => ⟨if sel then .disarmed else cell.state, cell.enabled⟩) ∨
     i = .wdInterruptControl010 g ∧ act = (fun sel cell => if sel then ⟨.armed, true⟩ else cell) ∨
     i = .wdInterruptControl011 g ∧ act = (fun sel cell => if sel then ⟨.armed, false⟩ else cell) ∨
     i = .wdInterruptControl100 g ∧ act = (fun sel cell => ⟨cell.state, cell.enabled || sel⟩) ∨
     i = .wdInterruptControl101 g ∧ act = (fun sel cell => ⟨cell.state, cell.enabled && !sel⟩) ∨
     i = .wdInterruptControl110 g ∧ act = (fun sel cell => ⟨cell.state, sel⟩) ∨
     i = .wdInterruptControl111 g ∧
      act = (fun sel cell => ⟨if sel && cell.state == .armed then .waiting else cell.state, cell.enabled⟩)) →
    ∃ t, exec i s = .next t ∧ t = { s with pp := s.protectedAddress s.regH, levels := t.levels } ∧
      ∀ level : Level, t.level level =
        match levelSelector level with
        | some (group, bit) =>
          if group = g ∧ installed s.cfg level = true then act (s.a.bit bit) (s.level level) else s.level level
        | none => s.level level) ∧
  (∀ (level : Level) (loc : Nat), loc = (levelLocation level).toNat →
    0xFC ≤ loc ∧ loc < 0x190 ∧
    levelSelector level =
      if loc < 0x100 then some (0, loc - 0xFC)
      else if loc < 0x106 then none
      else if loc < 0x110 then some (0, loc - 0x100)
      else some (BitVec.ofNat 4 (loc / 0x10 - 0xC), loc % 0x10)) ∧
  (∀ level k : Level, levelLocation level = levelLocation k → level = k)

/-- The three Watchdog Timer commands with the timer: the timer is started, stopped or restarted, and O and C take the
two status bits, which are free values (log entry 7); A is unchanged. Disable also clears the hangup signal,
and Enable and Reset Timer leave it: the model's choice, log entry 14. That the timer acknowledges its own commands at
once, and that the connector shows them, is log entry 32; which address is which command is the spec's decision D31
(43_direct_control.md R221, 60_exceptions.md R321). -/
def Obligations.WatchdogCommandsComplete : Prop :=
  ∀ (s s1 : State), s.admits .privileged = true → s.cfg.hasWatchdog = true →
    s1 = { s with
      pp := s.protectedAddress s.regH, o := freeBit s.free, c := freeBit (s.free + 1), free := s.free + 2 } →
    exec .wdWatchdogEnable s = .next { s1 with
      wdEnabled := true, dioOut := some (.write 0x0200#16 s.a) } ∧
    exec .wdWatchdogDisable s = .next { s1 with
      wdEnabled := false, wdHangup := false, dioOut := some (.write 0x0100#16 s.a) } ∧
    exec .wdWatchdogResetTimer s = .next { s1 with
      dioOut := some (.write 0x0300#16 s.a) }

/-- Direct input/output with the feature: the effective address, and for WD the accumulator, are presented; with an
acknowledgment the two status bits go to O and C and, for RD, the data to A; without one the command is held.
RD presents the effective address only. That acknowledgments wait in a list from which the next command takes one, and
that the first status bit goes to O, is the model's choice, log entry 26 (43_direct_control.md R220, R222). -/
def Obligations.DirectIoTransfers : Prop :=
  ∀ (s : State) (ea : Word) (rd wd : DioCommand), s.admits .privileged = true → s.cfg.hasDio = true →
    rd = .read ea → wd = .write ea s.a →
    (∀ r rest, s.dioReplies = r :: rest →
      exec (.rdDirectIO ea) s = .next { s with
        pp := s.protectedAddress s.regH, a := r.data, o := r.o, c := r.c, dioReplies := rest, dioOut := some rd } ∧
      exec (.wdDirectIO ea) s = .next { s with
        pp := s.protectedAddress s.regH, o := r.o, c := r.c, dioReplies := rest, dioOut := some wd }) ∧
    (s.dioReplies = [] →
      exec (.rdDirectIO ea) s = .next { s with
        pp := s.protectedAddress s.regH, dio := some rd, dioOut := some rd } ∧
      exec (.wdDirectIO ea) s = .next { s with
        pp := s.protectedAddress s.regH, dio := some wd, dioOut := some wd })

/-- While a direct I/O instruction is held no instruction executes and no interrupt is recognised: a step without
events applies the I/O level's held signal and nothing else. The acknowledgment ends the instruction: its status bits
go to O and C and, for RD, its data to A. The Watchdog Timer's substitute acknowledge ends it too, with free values
(log entry 7), and leaves the response failure due, which signals the level wired to it at the end of the next
instruction (log entry 38); without the timer there is none. A held command has no acknowledgment waiting: `State.Inv`
(43_direct_control.md R222, 60_exceptions.md R286, R321, R324). -/
def Obligations.HeldDirectIoWaitsForAcknowledgment : Prop :=
  ∀ (s : State) (cmd : DioCommand), s.dio = some cmd → s.dioReplies = [] → s.running = true →
    (s.env = [] → ∃ t, step s = .next t ∧ { s with parityFaults := [] }.lineApplied t) ∧
    (∀ r rest, s.env = [Event.dioReply r] :: rest → ∃ u t, step s = .next t ∧
      { s with parityFaults := [], env := rest }.lineApplied u ∧
      { u with dio := none, a := if cmd.isWrite then s.a else r.data, o := r.o, c := r.c }.completed t) ∧
    (s.cfg.hasWatchdog = true → ∃ u, s.apply .dioTimeout = .next { u with dioFailure := true } ∧
      { s with
        dio := none
        a := if cmd.isWrite then s.a else freeWord s.free
        o := freeBit s.free
        c := freeBit (s.free + 1)
        free := s.free + 2 }.completed u) ∧
    (s.cfg.hasWatchdog = false → s.apply .dioTimeout = .next s)

/-- RD and WD do what the row does that their effective address selects, and so they complete; with an effective
address that names a general register they transfer it: register 0 as the spec's decision D14 has it, register 1 as D15
(43_direct_control.md R190, R191, R192, R200, R201). -/
def Obligations.DirectControlFollowsTheEffectiveAddress : Prop :=
  (∀ (s : State) (m : MemRef) (ea : Word), s.effectiveAddress m = .ok ea →
    (∀ f, decodeRd ea = some f → exec (.rd m) s = exec f.instr s) ∧
    (∀ f, decodeWd ea = some f → exec (.wd m) s = exec f.instr s)) ∧
  (∀ (s : State) (m : MemRef) (r : Gpr), s.effectiveAddress m = .ok (0#13 ++ r.bits) → s.admits .privileged = true →
    exec (.rd m) s = .next { s with pp := s.protectedAddress s.regH, a := s.gpr r } ∧
    exec (.wd m) s = .next ({ s with pp := s.protectedAddress s.regH }.setGpr r s.a))

/-- What the tables do not define is refused, each case under its own name: RD in mode 0001, function bytes that Table 3
or Table 4 does not list, must-be-zero fields, interrupt control code 000, register numbers that name no installed
register, direct I/O without the feature, the Watchdog Timer's addresses without the timer, and I/O instructions for a
device whose channel is not installed (93_implementation_defined.md U1 to U5, U7; 43_direct_control.md R192, R198, R201,
R209, R210, R218, R221, R222; 44_io.md R232). -/
def Obligations.UndefinedFunctionsRefused : Prop :=
  (∀ (s : State) (m : MemRef) (ea : Word), s.effectiveAddress m = .ok ea → s.admits .privileged = true →
    (0x1000 ≤ ea.toNat ∧ ea.toNat < 0x2000 → exec (.rd m) s = .refused .interruptModeRead) ∧
    (0x0100 ≤ ea.toNat ∧ ea.toNat < 0x1000 → exec (.rd m) s = .refused .mustBeZero) ∧
    (ea.toNat < 0x100 ∧ isRdFunctionByte ea.lo = false → exec (.rd m) s = .refused .undefinedFunction) ∧
    (ea.toNat < 0x100 ∧ isWdFunctionByte ea.lo = false → exec (.wd m) s = .refused .undefinedFunction) ∧
    (0x0100 ≤ ea.toNat ∧ ea.toNat < 0x1000 ∧ ea ≠ 0x0100#16 ∧ ea ≠ 0x0200#16 ∧ ea ≠ 0x0300#16 →
      exec (.wd m) s = .refused .mustBeZero) ∧
    (0x1000 ≤ ea.toNat ∧ ea.toNat < 0x1010 → exec (.wd m) s = .refused .undefinedInterruptCode) ∧
    (0x1000 ≤ ea.toNat ∧ ea.toNat < 0x2000 ∧ (0x1800 ≤ ea.toNat ∨ 0x10 ≤ ea.toNat % 0x100) →
      exec (.wd m) s = .refused .mustBeZero)) ∧
  (∀ (s : State) (n : BitVec 6), s.admits .privileged = true → 8 + 2 * ioChannels s.cfg ≤ n.toNat →
    exec (.rdRegister n) s = .refused .uninstalledRegister ∧
    exec (.wdRegister n) s = .refused .uninstalledRegister ∧
    exec (.wdTestAndResetBit0 n) s = .refused .uninstalledRegister) ∧
  (∀ (s : State) (ea : Word), s.admits .privileged = true → s.cfg.hasDio = false →
    exec (.rdDirectIO ea) s = .refused .noDirectIo ∧ exec (.wdDirectIO ea) s = .refused .noDirectIo ∧
    ∀ m : MemRef, s.effectiveAddress m = .ok ea → 0x2000 ≤ ea.toNat →
      exec (.rd m) s = .refused .noDirectIo ∧ exec (.wd m) s = .refused .noDirectIo) ∧
  (∀ s : State, s.admits .privileged = true → s.cfg.hasWatchdog = false →
    exec .wdWatchdogEnable s = .refused .mustBeZero ∧ exec .wdWatchdogDisable s = .refused .mustBeZero ∧
    exec .wdWatchdogResetTimer s = .refused .mustBeZero) ∧
  (∀ (s : State) (n : Byte) (d : Device), s.admits .privileged = true → n = s.a.extractLsb' 0 8 →
    s.device n = some d → ioChannels s.cfg ≤ channelOf n →
    ∀ i ∈ [Instr.sio, .tio, .tdv, .hio], exec i s = .refused .uninstalledRegister)

/-! ### Input and output -/

/-- SIO outside the load condition: a device that can accept is started, its controller busy with it, and answers 0 0;
one that cannot answers 0 1 and is not started; no device answers 1 1. The status byte is that of Table 5 before the
start, by the spec's own inference (44_io.md R241, R242, R247). Which devices share a controller is log entry 12, from
the spec's decision D8; that a number no device has answers 1 1 also where its channel is not installed, against the
letter of U7, is log entry 13. -/
def Obligations.StartIoStartsAReadyDevice : Prop :=
  ∀ (s : State) (n : Byte), s.admits .privileged = true → s.loadCondition = false → n = s.a.extractLsb' 0 8 →
    (s.device n = none →
      exec .sio s = .next { s with pp := s.protectedAddress s.regH, o := true, c := true }) ∧
    (∀ d, s.device n = some d → channelOf n < ioChannels s.cfg →
      (¬(d.condition = .ready ∧ d.controller = .ready ∧ d.pending = false) →
        exec .sio s = .next { s with
          pp := s.protectedAddress s.regH, a := d.statusByte ++ n, o := false, c := true }) ∧
      (d.condition = .ready → d.controller = .ready → d.pending = false →
        ∃ t, exec .sio s = .next t ∧
          t = { s with
            pp := s.protectedAddress s.regH, a := d.statusByte ++ n, o := false, c := false, devices := t.devices } ∧
          t.device n = some { d with phase := .wantsOrder, condition := .busy, controller := .busy } ∧
          ∀ k : Byte, sameController k n = false → t.device k = s.device k))

/-- TIO makes the responses of SIO and changes no state but A bits 0-7, O and C; TDV returns the status and condition
that the device carries, and changes no device: the model's choice, log entry 21; that a number no device has answers
1 1 also where its channel is not installed, against the letter of U7, is log entry 13 (44_io.md R241, R243, R244). -/
def Obligations.TestInstructionsOnlyReport : Prop :=
  ∀ (s : State) (n : Byte), s.admits .privileged = true → n = s.a.extractLsb' 0 8 →
    (s.device n = none →
      exec .tio s = .next { s with pp := s.protectedAddress s.regH, o := true, c := true } ∧
      exec .tdv s = .next { s with pp := s.protectedAddress s.regH, o := true, c := true }) ∧
    (∀ d, s.device n = some d → channelOf n < ioChannels s.cfg →
      exec .tio s = .next { s with
        pp := s.protectedAddress s.regH
        a := d.statusByte ++ n
        o := false
        c := !decide (d.condition = .ready ∧ d.controller = .ready ∧ d.pending = false) } ∧
      exec .tdv s = .next { s with
        pp := s.protectedAddress s.regH, a := d.tdvStatus ++ n, o := false, c := d.tdvCondition })

/-- HIO stops the device, clears its pending interrupt and tells whether its controller was busy; AIO returns status
and number of the first device with an interrupt pending and clears it. HIO touches no device of another controller,
AIO no other device. That the devices stand in the order of their priority, and that a device carries its AIO status,
is the model's choice, log entry 21; which devices share a controller is log entry 12; that HIO to a number no device
has answers 1 1 also where its channel is not installed, against the letter of U7, is log entry 13 (44_io.md R245,
R246). -/
def Obligations.HaltAndAcknowledge : Prop :=
  ∀ (s : State) (n : Byte), s.admits .privileged = true → n = s.a.extractLsb' 0 8 →
    (∀ d, s.device n = some d → channelOf n < ioChannels s.cfg →
      ∃ t, exec .hio s = .next t ∧
        t = { s with
          pp := s.protectedAddress s.regH
          a := d.statusByte ++ n
          o := false
          c := decide (d.controller = .busy)
          devices := t.devices } ∧
        (∃ d1, t.device n = some d1 ∧ d1.phase = .quiet ∧ d1.pending = false) ∧
        ∀ k : Byte, sameController k n = false → t.device k = s.device k) ∧
    (s.device n = none → exec .hio s = .next { s with pp := s.protectedAddress s.regH, o := true, c := true }) ∧
    ((∀ d ∈ s.devices, d.pending = false) →
      exec .aio s = .next { s with pp := s.protectedAddress s.regH, o := true, c := true }) ∧
    (∀ before d after, s.devices = before ++ d :: after → d.pending = true → (∀ b ∈ before, b.pending = false) →
      ∃ t, exec .aio s = .next t ∧
        t = { s with
          pp := s.protectedAddress s.regH
          a := d.aioStatus ++ d.number
          o := false
          c := d.aioUnusual
          devices := t.devices } ∧
        (∀ d1, t.device d.number = some d1 → d1.pending = false) ∧
        ∀ k : Byte, k ≠ d.number → t.device k = s.device k)

/-- SIO under the load condition: the IOCD X'0000 0080' goes to the channel registers, and the CPU enters the wait
condition with P and S cleared, whatever the response; the load condition ends (the spec's decision D38). A device that
can accept gets the Read order X'02' from the CPU and answers 0 0; one that cannot answers 0 1 and is not started; no
device answers 1 1. Nothing else changes, no other channel register and no device of another controller
(70_reset_and_hazards.md R344; 44_io.md R242). Which devices share a controller is log entry 12; that a number no
device has answers 1 1 also where its channel is not installed, and then loads no channel register, is log entry 13. -/
def Obligations.LoadConditionStartsTheLoad : Prop :=
  ∀ (s s1 : State) (n : Byte), s.admits .privileged = true → s.loadCondition = true → n = s.a.extractLsb' 0 8 →
    s1 = { s with
      pp := s.protectedAddress s.regH, wff := true, p := 0, regS := 0, loadCondition := false } →
    (∀ d, s.device n = some d → channelOf n < ioChannels s.cfg →
      ∃ t, exec .sio s = .next t ∧
        t.channelEven (channelOf n) = 0x0000#16 ∧ t.channelOdd (channelOf n) = 0x0080#16 ∧
        (∀ k : Nat, k ≠ 2 * channelOf n → k ≠ 2 * channelOf n + 1 → t.channel k = s.channel k) ∧
        (d.condition = .ready → d.controller = .ready → d.pending = false →
          t = { s1 with a := d.statusByte ++ n, o := false, c := false, ch := t.ch, devices := t.devices } ∧
          t.device n = some { d with phase := .underOrder 0x02#8, condition := .busy, controller := .busy } ∧
          ∀ k : Byte, sameController k n = false → t.device k = s.device k) ∧
        (¬(d.condition = .ready ∧ d.controller = .ready ∧ d.pending = false) →
          t = { s1 with a := d.statusByte ++ n, o := false, c := true, ch := t.ch })) ∧
    (s.device n = none →
      ∃ t, exec .sio s = .next t ∧ t = { s1 with o := true, c := true, ch := t.ch } ∧
        (channelOf n < ioChannels s.cfg →
          t.channelEven (channelOf n) = 0x0000#16 ∧ t.channelOdd (channelOf n) = 0x0080#16 ∧
          ∀ k : Nat, k ≠ 2 * channelOf n → k ≠ 2 * channelOf n + 1 → t.channel k = s.channel k) ∧
        (ioChannels s.cfg ≤ channelOf n → t.ch = s.ch))

/-- One service step that does not exhaust the count, of a device in the automatic mode, with the default IOCD layout.
The byte is the left one of the word at an even count and the right one at an odd count, after which the word address
advances; the count goes down by one, and the DC and I flags stay. An input byte is stored there, and E is set if it
came with bad parity. An output byte is sent to the device, memory does not change, and E is set by a memory parity
error. No other word, no other channel register and no other device changes. The first byte a started device takes is
its order, and a Stop order with its I bit raises the interrupt of a device that interprets it; the order fixes the
direction of what follows (44_io.md R234, R238, R249). The places of the count and of the flags are those of log entry
5; that an unassigned order, and a Stop order, moves no data is log entry 35. -/
def Obligations.ServiceStoresOneInputByte : Prop :=
  (∀ (s : State) (n b : Byte) (bad : Bool) (d : Device) (addr odd : Word) (count : Nat),
    s.mem.wf = true → s.cfg.iocd = {} → s.device n = some d → d.automatic = true → channelOf n < ioChannels s.cfg →
    (d.direction = .toMemory ∨ d.direction = .toDevice) → addr = s.channelEven (channelOf n) →
    odd = s.channelOdd (channelOf n) → count = odd.toNat % 0x2000 → 2 ≤ count →
    ∃ t, s.service n b bad = .next t ∧ t = { s with mem := t.mem, ch := t.ch, devices := t.devices } ∧
      t.channelEven (channelOf n) = (if count % 2 = 0 then addr else addr + 1) ∧
      (t.channelOdd (channelOf n)).toNat % 0x2000 = count - 1 ∧
      (t.channelOdd (channelOf n)).bit 1 = odd.bit 1 ∧ (t.channelOdd (channelOf n)).bit 2 = odd.bit 2 ∧
      (∀ k : Nat, k ≠ 2 * channelOf n → k ≠ 2 * channelOf n + 1 → t.channel k = s.channel k) ∧
      (d.direction = .toMemory →
        t.devices = s.devices ∧ (t.channelOdd (channelOf n)).msb = (odd.msb || bad) ∧
        (s.hasLocation addr = true →
          t.readWord addr = if count % 2 = 0 then b ++ (s.readWord addr).lo else (s.readWord addr).hi ++ b) ∧
        ∀ other : Word, other ≠ addr → t.readWord other = s.readWord other) ∧
      (d.direction = .toDevice → ∀ byte : Byte,
        byte = (if count % 2 = 0 then (s.readWord addr).hi else (s.readWord addr).lo) →
        t.mem = s.mem ∧ (t.channelOdd (channelOf n)).msb = (odd.msb || s.parityError addr) ∧
        t.device n = some (
          if d.phase = .wantsOrder then
            { d with
              phase := .underOrder byte
              lastByte := byte
              pending := d.pending || (d.interpretsStop && byte.msb && decide (byte.toNat % 0x10 = 0)) }
          else { d with lastByte := byte }) ∧
        ∀ k : Byte, k ≠ n → t.device k = s.device k)) ∧
  (∀ d : Device, d.phase = .wantsOrder → d.direction = .toDevice) ∧
  (∀ (d : Device) (order : Byte), d.phase = .underOrder order →
    d.direction =
      if order.toNat % 4 = 1 ∨ order.toNat % 4 = 3 then .toDevice
      else if order.toNat % 4 = 2 ∨ order.toNat % 0x10 = 0xC ∨ order.toNat % 0x10 = 4 then .toMemory
      else .none)

/-- The byte that exhausts the count, of an output table, whose last byte is the right half of the word and is sent to
the device, or of an input table, whose last byte is stored there: without data chaining the device is told count done,
and E is set by a byte received with bad parity or sent with a memory parity error; with it, the IOCD after the table
is loaded, the device goes on under its order, and a device interrupt is raised if and only if the old I flag is set.
No other channel register and no other device changes (44_io.md R234, R235, R238, R240, R249). The places of the flags
are those of log entry 5. That the IOCD is loaded also where its words meet a parity error is the model's choice, log
entry 11, and that the E flag goes with the old IOCD is log entry 22. -/
def Obligations.ExhaustedCountEndsOrChains : Prop :=
  ∀ (s : State) (n b last : Byte) (bad : Bool) (d served : Device) (addr odd : Word),
    s.mem.wf = true → s.cfg.iocd = {} → s.device n = some d → d.automatic = true → channelOf n < ioChannels s.cfg →
    (d.direction = .toDevice ∨ d.direction = .toMemory) → addr = s.channelEven (channelOf n) →
    odd = s.channelOdd (channelOf n) → odd.toNat % 0x2000 = 1 →
    (odd.bit 1 = true → (s.readWord (addr + 2)).toNat % 0x2000 ≠ 0) →
    last = (s.readWord addr).lo →
    served = (
      if d.direction = .toMemory then d
      else if d.phase = .wantsOrder then
        { d with
          phase := .underOrder last
          lastByte := last
          pending := d.pending || (d.interpretsStop && last.msb && decide (last.toNat % 0x10 = 0)) }
      else { d with lastByte := last }) →
    ∃ t, s.service n b bad = .next t ∧
      t = { s with mem := t.mem, ch := t.ch, devices := t.devices } ∧
      (d.direction = .toDevice → t.mem = s.mem) ∧
      (d.direction = .toMemory →
        (s.hasLocation addr = true → t.readWord addr = (s.readWord addr).hi ++ b) ∧
        ∀ other : Word, other ≠ addr → t.readWord other = s.readWord other) ∧
      (∀ k : Byte, k ≠ n → t.device k = s.device k) ∧
      (∀ k : Nat, k ≠ 2 * channelOf n → k ≠ 2 * channelOf n + 1 → t.channel k = s.channel k) ∧
      (odd.bit 1 = false →
        t.device n = some { served with phase := .countDone } ∧ t.channelEven (channelOf n) = addr + 1 ∧
        (t.channelOdd (channelOf n)).toNat % 0x2000 = 0 ∧
        (t.channelOdd (channelOf n)).bit 1 = false ∧ (t.channelOdd (channelOf n)).bit 2 = odd.bit 2 ∧
        (t.channelOdd (channelOf n)).msb =
          (odd.msb || if d.direction = .toMemory then bad else s.parityError addr)) ∧
      (odd.bit 1 = true →
        t.device n = some { served with pending := served.pending || odd.bit 2 } ∧
        t.channelEven (channelOf n) = s.readWord (addr + 1) ∧ t.channelOdd (channelOf n) = s.readWord (addr + 2))

/-- Channel end and unusual end: the operational status byte replaces the word address, with zeros in bits 8-15, the
odd register keeps flags and residual count, the device and its controller leave the busy condition, and the I flag
raises a device interrupt. That the condition after busy is ready is the model's choice, log entry 41 (44_io.md R236,
R237, R240). -/
def Obligations.ChannelEndDeliversStatus : Prop :=
  ∀ (s : State) (n : Byte) (d : Device) (status : OperationalStatus),
    s.device n = some d → channelOf n < ioChannels s.cfg → d.phase ≠ .quiet →
    ∃ t d1, s.channelEnd n status = t ∧ t = { s with ch := t.ch, devices := t.devices } ∧
      (∀ k : Fin 16, (t.channelEven (channelOf n)).bit k = (match k.val with
        | 0 => status.te
        | 1 => status.il
        | 2 => status.cm
        | 3 => status.ce
        | 4 => status.ue
        | _ => false)) ∧
      t.channelOdd (channelOf n) = s.channelOdd (channelOf n) ∧
      t.device n = some d1 ∧ d1.phase = .quiet ∧ d1.condition = .ready ∧ d1.controller = .ready ∧
      d1.unusualEnd = status.ue ∧
      d1.pending = (d.pending || wantsInterrupt s.cfg.iocd (s.channelOdd (channelOf n)))

/-! ### Interrupts -/

/-- The signals of the environment and of the operator, each on its own level if that level is installed: an armed
level remembers one signal, any other level is unchanged. The Watchdog Timer's hangup signal goes to the level wired to
it, if there is one (log entry 38), and the timer stays enabled after it (log entry 14) (60_exceptions.md R277, R281,
R292, R313, R315, R321). -/
def Obligations.SignalsAreRemembered : Prop :=
  ∀ (s : State) (k : Fin 4) (level : Level),
    (∃ t, s.apply (.panel .interrupt) = .next t ∧ s.signalled panelLevel t) ∧
    (s.cfg.hasCounters = true → ∃ t, s.apply (.clockPulse k) = .next t ∧ s.signalled (counterLevel k) t) ∧
    (s.cfg.hasPowerFailSafe = true →
      (s.powered = true → ∃ t, s.apply .powerOn = .next t ∧ s.signalled powerOnLevel t) ∧
      (∃ t, s.apply .powerOff = .next t ∧ s.signalled powerOffLevel t)) ∧
    (takesExternalSignal level = true → installed s.cfg level = true →
      (∃ t, s.apply (.externalSignal level) = .next t ∧ s.signalled level t) ∧
      (s.wdEnabled = true → s.cfg.hangupLevel = some level →
        ∃ t, s.apply .watchdogTimeout = .next t ∧ { s with wdHangup := true }.signalled level t)) ∧
    (s.wdEnabled = true → s.cfg.hangupLevel = none → s.apply .watchdogTimeout = .next { s with wdHangup := true }) ∧
    (s.wdEnabled = false → s.apply .watchdogTimeout = .next s)

/-- Entry to a normal level: the PSD goes to the two words at the address Q its location holds, the level is active,
WFF is reset, execution goes on at Q + 2 under the first-instruction hold, and nothing else changes. The zero bits of
the stored status are the spec's decision D18, and that the entry goes through also where its accesses meet a parity
error is the model's choice, log entry 11 (60_exceptions.md R287, 10_state.md R26). -/
def Obligations.EntryStoresTheProgramStatus : Prop :=
  ∀ (s : State) (level : Level) (q : Word), s.mem.wf = true → q = s.readWord (levelLocation level) →
    s.hasLocation q = true → s.hasLocation (q + 1) = true →
    ∃ t, s.enter level = t ∧
      t = { s with mem := t.mem, levels := t.levels, wff := false, p := q + 2, hold := true } ∧
      (∀ k : Fin 16, (t.readWord q).bit k = (match k.val with
        | 8 => s.pp
        | 10 => s.ii
        | 11 => s.ei
        | 14 => s.o
        | 15 => s.c
        | _ => false)) ∧
      t.readWord (q + 1) = s.p ∧
      (∀ addr : Word, addr ≠ q → addr ≠ q + 1 → t.readWord addr = s.readWord addr) ∧
      ∀ k : Level, t.level k = if k = level then { s.level k with state := .active } else s.level k

/-- The exit undoes the entry: what LDX loads from Q after the entry to a level that could become active restores P and
the five indicators, and leaves that level armed and every other one as it was (60_exceptions.md R290, R291). -/
def Obligations.ExitUndoesEntry : Prop :=
  ∀ (s t : State) (level : Level) (q : Word), s.mem.wf = true → q = s.readWord (levelLocation level) →
    s.hasLocation q = true → s.hasLocation (q + 1) = true → s.claimant = some level →
    (s.level level).state ≠ .active → (s.pp = true → s.operative = true) → s.exitCondition = false →
    t = (s.enter level).leave ((s.enter level).readWord q) ((s.enter level).readWord (q + 1)) →
    t = { s with mem := t.mem, levels := t.levels, wff := false, hold := true } ∧
      (∀ addr : Word, addr ≠ q → addr ≠ q + 1 → t.readWord addr = s.readWord addr) ∧
      ∀ k : Level, t.level k = if k = level then { s.level k with state := .armed } else s.level k

/-- Counter processing: the word in the level's location goes up by 1 modulo 2^16, the level is armed, a result of zero
signals the counter-equals-zero level, WFF is reset; no PSD is stored and no register or indicator changes.
That the counting goes through also where its access meets a parity error is the model's choice, log entry 11
(60_exceptions.md R292). -/
def Obligations.CountersCount : Prop :=
  ∀ (s : State) (k : Fin 4) (cell : Word), s.mem.wf = true → cell = levelLocation (counterLevel k) →
    ∃ t, s.count k = t ∧ t = { s with mem := t.mem, levels := t.levels, wff := false } ∧
      t.readWord cell = s.readWord cell + 1 ∧
      (∀ addr : Word, addr ≠ cell → t.readWord addr = s.readWord addr) ∧
      ∀ level : Level, t.level level =
        if level = counterLevel k then { s.level level with state := .armed }
        else if level = zeroLevel k ∧ s.readWord cell = 0xFFFF#16 ∧ installed s.cfg level = true ∧
          (s.level level).state = .armed then { s.level level with state := .waiting }
        else s.level level

/-- Recognition serves the highest claimant of the chain and no other: an eligible normal level below which everything
waits is entered; one already active is left alone with everything below it, whatever its enable flip-flop and inhibit
say (the spec's decision D37); an eligible counter is counted, and recognition goes on from there. The chain is that of
R285, by the locations of its levels (60_exceptions.md R280, R285, R294). -/
def Obligations.RecognitionServesTheHighestLevel : Prop :=
  (∀ (s : State) (higher lower : List Level) (level : Level), s.exitCondition = false → s.hold = false →
    chain s.cfg = higher ++ level :: lower →
    (∀ k ∈ higher, (s.level k).state ≠ .active ∧ s.eligible k = false) →
    ((s.level level).state = .active → s.recognize = s) ∧
    (s.eligible level = true → isCounter level = false → s.recognize = s.enter level) ∧
    (∀ k, level = counterLevel k → s.eligible level = true → s.recognize = (s.count k).recognize)) ∧
  (∀ s : State, (∀ k ∈ chain s.cfg, (s.level k).state ≠ .active ∧ s.eligible k = false) → s.recognize = s) ∧
  (∀ cfg : Config, (chain cfg).map levelLocation =
    ([0x100#16, 0x101#16, 0xFC#16, 0xFD#16, 0xFE#16, 0xFF#16, 0x102#16, 0x103#16, 0x104#16, 0x105#16] ++
      cfg.groupOrder.flatMap fun
        | .io => (List.range 10).map fun i => BitVec.ofNat 16 (0x106 + i)
        | .ext g => (List.range 16).map fun i => BitVec.ofNat 16 (0x110 + 16 * g.val + i)).filter fun loc =>
      (List.finRange 148).any fun level => levelLocation level == loc && installed cfg level)

/-- Inhibits and holds: a level of the input/output group is not eligible under II, an external one under EI, counter
and override levels are eligible whenever waiting and enabled; and while the exit condition or the first-instruction
hold is set a step recognises nothing (60_exceptions.md R282, R283, R284, R286, R289). -/
def Obligations.InhibitsAndHolds : Prop :=
  ∀ (s : State) (level : Level),
    (isIoGroup level = true → s.eligible level =
      decide ((s.level level).state = .waiting ∧ (s.level level).enabled = true ∧ s.ii = false)) ∧
    (isExternal level = true → s.eligible level =
      decide ((s.level level).state = .waiting ∧ (s.level level).enabled = true ∧ s.ei = false)) ∧
    (isCounter level = true ∨ isOverride level = true → s.eligible level =
      decide ((s.level level).state = .waiting ∧ (s.level level).enabled = true)) ∧
    (s.env = [] → s.dio = none → s.running = true → s.parityHalt = false → s.wff = false →
      s.exitCondition = true ∨ s.hold = true →
      step s = ({ s with parityFaults := [] }.ioSignal).instructionStep)

/-! ### Protection and the other synchronous causes -/

/-- Rule 1: an RD or WD, in any function, fetched from unprotected memory is not executed; P goes back to it, PP is 0,
and the protection violation level is signalled (60_exceptions.md R301, R306; 43_direct_control.md R190). -/
def Obligations.PrivilegedInstructionsNeedProtectedMemory : Prop :=
  ∀ (i : Instr) (s : State), isPrivileged i = true → s.addresses i → s.operative = true →
    s.violationsInhibited = false → s.protectedAddress s.regH = false →
    ∃ t, exec i s = .next t ∧ { s with p := s.regH, pp := false }.signalled protectionLevel t

/-- Rule 2: any instruction in protected memory after one in unprotected memory, unless it is the first of an interrupt
routine, is not executed; P goes back to it, PP stays 0, and the protection violation level is signalled
(60_exceptions.md R302, R306). -/
def Obligations.ProtectedMemoryIsEnteredByInterruptOnly : Prop :=
  ∀ (i : Instr) (s : State), s.addresses i → s.operative = true → s.violationsInhibited = false → s.pp = false →
    s.protectedAddress s.regH = true → s.hold = false →
    ∃ t, exec i s = .next t ∧ { s with p := s.regH }.signalled protectionLevel t

/-- Rule 3: STA and IM in unprotected memory do not alter protected memory; the instruction is refused as by rule 1
(60_exceptions.md R303, R306). -/
def Obligations.UnprotectedStoresAreRefused : Prop :=
  ∀ (s : State) (m : MemRef) (ea : Word), s.effectiveAddress m = .ok ea → s.operative = true →
    s.violationsInhibited = false → s.protectedAddress s.regH = false → s.protectedAddress ea = true →
    (∃ t, exec (.sta m) s = .next t ∧ { s with p := s.regH, pp := false }.signalled protectionLevel t) ∧
    (∃ t, exec (.im m) s = .next t ∧ { s with p := s.regH, pp := false }.signalled protectionLevel t)

/-- What an unprotected program cannot do, whatever instruction it executes outside an exit sequence: change a protected
word, a protection register, an I/O channel register, an inhibit, an enable flip-flop, the exit condition or a device
(60_exceptions.md R307). -/
def Obligations.UnprotectedProgramsAreConfined : Prop :=
  ∀ (i : Instr) (s t : State), s.operative = true → s.violationsInhibited = false →
    s.protectedAddress s.regH = false → s.exitCondition = false → (∀ m, i ≠ .ldxExitForm m) →
    exec i s = .next t →
    (∀ addr : Word, s.protectedAddress addr = true → t.readWord addr = s.readWord addr) ∧
    t.pr = s.pr ∧ t.ch = s.ch ∧ t.ii = s.ii ∧ t.ei = s.ei ∧ t.exitCondition = false ∧ t.devices = s.devices ∧
    t.dioOut = s.dioOut ∧ ∀ level : Level, (t.level level).enabled = (s.level level).enabled

/-- MUL and DIV without the option are not executed: P goes back to the instruction and the exception level is signalled
(60_exceptions.md R311; 40_memory_reference.md R127, R128). -/
def Obligations.MultiplyAndDivideExceptions : Prop :=
  ∀ (s : State) (m : MemRef) (ea : Word), s.effectiveAddress m = .ok ea → s.admits .plain = true →
    s.cfg.hasMulDiv = false →
    (∃ t, exec (.mul m) s = .next t ∧
      { s with p := s.regH, pp := s.protectedAddress s.regH }.signalled multiplyLevel t) ∧
    (∃ t, exec (.div m) s = .next t ∧
      { s with p := s.regH, pp := s.protectedAddress s.regH }.signalled divideLevel t)

/-- A memory parity error on an operand of a reading instruction, the second word of the exit form among them, or on the
indirect read of any instruction: in HALT the instruction is aborted and the CPU halts with the address displayed; in
INTERRUPT it is aborted, the CPU enters the wait condition and the parity level, if installed, is signalled; nothing but
P changes otherwise. The same on the instruction's own fetch, at a location that does not exist. In IGNORE, and in
INTERRUPT while the parity level is active, the error is ignored (60_exceptions.md R312, 20_memory.md R63, R66,
92_eei_decisions.md D36). -/
def Obligations.ParityErrorsAbort : Prop :=
  (∀ (i : Instr) (m : MemRef) (s : State) (ea bad : Word), memRefOf i = some m → s.parityError bad = true →
    (s.effectiveAddress m = .error bad ∨
      s.effectiveAddress m = .ok ea ∧ s.admits .plain = true ∧ bad = ea ∧
        i ∈ [Instr.lda m, .and m, .add m, .sub m, .cp m, .ldx m, .ldxExitForm m] ∨
      s.effectiveAddress m = .ok ea ∧ s.admits .plain = true ∧ bad = ea + 1 ∧ s.parityError ea = false ∧
        (i = .ldx m ∧ s.exitCondition = true ∨ i = .ldxExitForm m) ∨
      s.effectiveAddress m = .ok ea ∧ s.admits .plain = true ∧ bad = ea ∧ s.cfg.hasMulDiv = true ∧
        i ∈ [Instr.mul m, .div m] ∨
      s.effectiveAddress m = .ok ea ∧ s.admits (.store ea) = true ∧ bad = ea ∧ i = .im m) →
    (s.parityMode = .halt → exec i s = .next { s with
      p := s.regH, parityHalt := true, parityIndicator := true, parityAddress := bad }) ∧
    (s.parityMode = .interrupt → s.cfg.hasMemParityInt = true → (s.level memoryParityLevel).state ≠ .active →
      ∃ t, exec i s = .next t ∧ { s with p := s.regH, wff := true }.signalled memoryParityLevel t) ∧
    (s.parityMode = .interrupt → s.cfg.hasMemParityInt = false →
      exec i s = .next { s with p := s.regH, wff := true })) ∧
  (∀ (s r : State), s.env = [] → s.dio = none → s.running = true → s.parityHalt = false → s.started = false →
    r = ({ s with parityFaults := [] }.ioSignal).recognize → r.wff = false → r.hasLocation r.p = false →
    (r.parityMode = .halt → ∃ t, step s = .next t ∧
      { r with regH := r.p, parityHalt := true, parityIndicator := true, parityAddress := r.p }.completed t) ∧
    (r.parityMode = .interrupt → r.cfg.hasMemParityInt = true → (r.level memoryParityLevel).state ≠ .active →
      ∃ u t, step s = .next t ∧ { r with regH := r.p, wff := true }.signalled memoryParityLevel u ∧ u.completed t) ∧
    (r.parityMode = .interrupt → r.cfg.hasMemParityInt = false →
      ∃ t, step s = .next t ∧ { r with regH := r.p, wff := true }.completed t)) ∧
  (∀ (s : State) (addr : Word),
    s.parityMode = .ignore ∨
      s.parityMode = .interrupt ∧ s.cfg.hasMemParityInt = true ∧ (s.level memoryParityLevel).state = .active →
    s.checkedRead addr = .ok (s.readWord addr))

/-! ### Frames -/

/-- No instruction but STA and IM changes a byte of memory, and these change no byte but the two of the word at their
effective address (60_exceptions.md R303; 40_memory_reference.md R122, R130). -/
def Obligations.StoresChangeOneWord : Prop :=
  (∀ (i : Instr) (s t : State), (∀ m, i ≠ .sta m) → (∀ m, i ≠ .im m) → exec i s = .next t →
    ∀ a : Nat, t.mem.byteAt a = s.mem.byteAt a) ∧
  (∀ (m : MemRef) (s t : State), exec (.sta m) s = .next t ∨ exec (.im m) s = .next t →
    ∀ a : Nat, (∀ ea, s.effectiveAddress m = .ok ea → a ≠ 2 * ea.toNat ∧ a ≠ 2 * ea.toNat + 1) →
      t.mem.byteAt a = s.mem.byteAt a)

/-- The frames of the memory-reference instructions: besides what any instruction may change (`State.carried`: P, PP
and what a refusal or an abort changes) only the destinations of each; STA and IM change no byte but the two of their
effective word (40_memory_reference.md R120 to R133). -/
def Obligations.MemoryReferenceFrames : Prop :=
  ∀ (m : MemRef) (s t : State),
    (exec (.lda m) s = .next t ∨ exec (.and m) s = .next t → t = { s.carried t with a := t.a }) ∧
    (exec (.add m) s = .next t ∨ exec (.sub m) s = .next t → t = { s.carried t with a := t.a, o := t.o, c := t.c }) ∧
    (s.exitCondition = false → exec (.ldx m) s = .next t → t = { s.carried t with x1 := t.x1 }) ∧
    (exec (.ldxExitForm m) s = .next t →
      t = { s.carried t with ii := t.ii, ei := t.ei, o := t.o, c := t.c, exitCondition := t.exitCondition }) ∧
    (exec (.cp m) s = .next t → t = { s.carried t with o := t.o, c := t.c }) ∧
    (exec (.mul m) s = .next t → t = { s.carried t with e := t.e, a := t.a, c := t.c }) ∧
    (exec (.div m) s = .next t → t = { s.carried t with e := t.e, a := t.a, o := t.o, c := t.c }) ∧
    (exec (.sta m) s = .next t → t = { s.carried t with mem := t.mem }) ∧
    (exec (.im m) s = .next t → t = { s.carried t with mem := t.mem, o := t.o, c := t.c }) ∧
    (exec (.sta m) s = .next t ∨ exec (.im m) s = .next t →
      ∀ b : Nat, (∀ ea, s.effectiveAddress m = .ok ea → b ≠ 2 * ea.toNat ∧ b ≠ 2 * ea.toNat + 1) →
        t.mem.byteAt b = s.mem.byteAt b) ∧
    (exec (.b m) s = .next t → t = s.carried t) ∧
    (exec (.shift m) s = .next t → t = { s.carried t with e := t.e, a := t.a, o := t.o, c := t.c })

/-- The frames of the conditional branches and of the copy instructions: an indicator branch changes no register but P,
an index branch only X1; a copy changes no general register but its destination, and only an adding one O and C
(41_conditional_branch.md R150 to R158, 42_copy.md R165 to R182). -/
def Obligations.BranchAndCopyFrames : Prop :=
  (∀ (disp : BitVec 9) (s t : State) (i : Instr),
    (i ∈ [Instr.bno disp, .bnc disp, .baz disp, .ben disp, .ban disp] → exec i s = .next t → t = s.carried t) ∧
    (i ∈ [Instr.bix disp, .bxno disp, .bxnc disp] → exec i s = .next t → t = { s.carried t with x1 := t.x1 })) ∧
  (∀ (f : CopyOperands) (op : CopyOp) (ac ai cd : Bool) (s t : State) (i : Instr),
    i ∈ [Instr.rand f, .randi f, .randc f, .ror f, .rcpy f, .rori f, .rcpyi f, .rorc f, .rcpyc f, .reor f, .reori f,
      .reorc f, .radd f, .raddi f, .raddc f, .copy { op := op, ac := ac, ai := ai, cd := cd, operands := f }] →
    exec i s = .next t →
    (∀ r : Gpr, r ≠ f.dr → r ≠ .p → t.gpr r = s.gpr r) ∧
    t = { s.carried t with l := t.l, t := t.t, x1 := t.x1, x2 := t.x2, e := t.e, a := t.a, o := t.o, c := t.c } ∧
    (i ∉ [Instr.radd f, .raddi f, .raddc f] → (∀ ac ai cd, i ≠ .copy ⟨.add, ac, ai, cd, f⟩) →
      t.o = s.o ∧ t.c = s.c))

/-- The frames of the RD and WD rows: besides what any instruction may change, only what the row's rule names; the rows
that read a register, the switches or the status change only A (and the inhibits they name); WD register changes no
indicator, and no register but the one it names (and P, which any instruction may change) (43_direct_control.md R192 to
R222, 44_io.md R241). -/
def Obligations.DirectControlFrames : Prop :=
  ∀ (s t : State) (n : BitVec 6) (r g : BitVec 4) (i e : Bool) (ea : Word) (instr : Instr), exec instr s = .next t →
    (instr ∈ [Instr.rdRegister n, .rdDataSwitches, .rdSaveStatus] → t = { s.carried t with a := t.a }) ∧
    (instr ∈ [Instr.rdSaveStatusResetInhibits i e, .rdSaveStatusSetInhibits i e] →
      t = { s.carried t with a := t.a, ii := t.ii, ei := t.ei } ∧ (i = false → t.ii = s.ii) ∧
        (e = false → t.ei = s.ei)) ∧
    (instr = .wdRegister n →
      t = { s.carried t with l := t.l, t := t.t, x1 := t.x1, x2 := t.x2, e := t.e, a := t.a, ch := t.ch }) ∧
    (instr = .wdTestAndResetBit0 n →
      t = { s.carried t with
        l := t.l, t := t.t, x1 := t.x1, x2 := t.x2, e := t.e, a := t.a, ch := t.ch, o := t.o }) ∧
    (instr = .wdRegister n ∨ instr = .wdTestAndResetBit0 n →
      (∀ reg : Gpr, n ≠ 0#3 ++ reg.bits → reg ≠ .p → t.gpr reg = s.gpr reg) ∧
      ∀ k : Nat, k < 40 → n.toNat ≠ 8 + k → t.channel k = s.channel k) ∧
    (instr = .wdProtectionRegister r → t = { s.carried t with pr := t.pr }) ∧
    (instr = .wdLoadStatus → t = { s.carried t with ii := t.ii, ei := t.ei, o := t.o, c := t.c }) ∧
    (instr = .wdWait → t = s.carried t) ∧
    (instr = .wdExit → t = { s.carried t with exitCondition := t.exitCondition }) ∧
    (instr ∈ [Instr.wdResetInhibits i e, .wdSetInhibits i e] → t = { s.carried t with ii := t.ii, ei := t.ei }) ∧
    (instr ∈ [Instr.wdInterruptControl001 g, .wdInterruptControl010 g, .wdInterruptControl011 g,
        .wdInterruptControl100 g, .wdInterruptControl101 g, .wdInterruptControl110 g, .wdInterruptControl111 g] →
      t = s.carried t) ∧
    (instr ∈ [Instr.wdWatchdogEnable, .wdWatchdogDisable, .wdWatchdogResetTimer] →
      t = { s.carried t with
        o := t.o, c := t.c, free := t.free, wdEnabled := t.wdEnabled, wdHangup := t.wdHangup, dioOut := t.dioOut }) ∧
    (instr ∈ [Instr.rdDirectIO ea, .wdDirectIO ea] →
      t = { s.carried t with
        a := t.a, o := t.o, c := t.c, dio := t.dio, dioOut := t.dioOut, dioReplies := t.dioReplies } ∧
      (instr = .wdDirectIO ea → t.a = s.a)) ∧
    (instr ∈ [Instr.tio, .tdv] → t = { s.carried t with a := t.a, o := t.o, c := t.c }) ∧
    (instr ∈ [Instr.hio, .aio] → t = { s.carried t with a := t.a, o := t.o, c := t.c, devices := t.devices }) ∧
    (instr = .sio → s.loadCondition = false →
      t = { s.carried t with a := t.a, o := t.o, c := t.c, devices := t.devices })

/-- No instruction changes the state of an interrupt level except interrupt control and the exit form of LDX, and a
refused or aborted instruction, which leaves P at its own address (43_direct_control.md R210, 60_exceptions.md R306,
R311, R312). -/
def Obligations.OnlyInterruptControlChangesLevels : Prop :=
  ∀ (i : Instr) (s t : State), exec i s = .next t → s.exitCondition = false → (∀ m, i ≠ .ldxExitForm m) →
    (∀ m, i ≠ .wd m) →
    (∀ g, i ≠ .wdInterruptControl001 g ∧ i ≠ .wdInterruptControl010 g ∧ i ≠ .wdInterruptControl011 g ∧
      i ≠ .wdInterruptControl100 g ∧ i ≠ .wdInterruptControl101 g ∧ i ≠ .wdInterruptControl110 g ∧
      i ≠ .wdInterruptControl111 g) →
    t.levels = s.levels ∨ t.p = s.regH

/-! ### The machine -/

/-- A step runs the decoded instruction. After the boundary (the held I/O signal and recognition have given `r`), when
the two bytes of the word at P decode to `i`, the step is `exec i` with the word in D, its address in H and P
incremented, and then the end of the instruction, unless it is held on the direct I/O connector. The first instruction
after COMPUTE goes to RUN is the one in D, with H as it stands, without a recognition before it; STEP is that one
instruction, after which the next is brought to D: that it is executed as after RUN, P being incremented before it, and
is followed by what IDLE does, is the model's choice, log entry 15 (40_memory_reference.md R120, 60_exceptions.md R294,
R323, 70_reset_and_hazards.md R345). -/
def Obligations.StepRunsTheDecodedInstruction : Prop :=
  (∀ (s r : State) (i : Instr) (w : Word), s.env = [] → s.dio = none → s.running = true → s.parityHalt = false →
    s.started = false → s.holdsProgramAddress = false →
    r = ({ s with parityFaults := [] }.ioSignal).recognize → r.wff = false → r.checkedRead r.p = .ok w →
    r.hasLocation r.p = true →
    decodeBytes [r.mem.byteAt (2 * r.p.toNat), r.mem.byteAt (2 * r.p.toNat + 1)] = .ok (i, []) →
    (r.exitCondition = true → ∃ m, i = .ldx m) →
    i.wellFormed = true ∧
    (∀ t, exec i { r with regH := r.p, regD := w, p := r.p + 1 } = .next t → step s = .next t.complete) ∧
    (∀ f, exec i { r with regH := r.p, regD := w, p := r.p + 1 } = .fault f → step s = .fault f) ∧
    (∀ f, exec i { r with regH := r.p, regD := w, p := r.p + 1 } = .refused f → step s = .refused f)) ∧
  (∀ (s r : State), s.env = [] → s.dio = none → s.running = true → s.parityHalt = false → s.wff = false →
    s.started = true → s.holdsProgramAddress = false → (s.exitCondition = true → ∃ m, decodeWord s.regD = .ldx m) →
    r = { s with parityFaults := [] }.ioSignal →
    (∀ t, exec (decodeWord s.regD) { r with started := false, p := s.p + 1 } = .next t → step s = .next t.complete) ∧
    (∀ f, exec (decodeWord s.regD) { r with started := false, p := s.p + 1 } = .refused f → step s = .refused f)) ∧
  (∀ s t : State, s.idle = true → s.dio = none → s.parityHalt = false → s.wff = false →
    s.holdsProgramAddress = false → (s.exitCondition = true → ∃ m, decodeWord s.regD = .ldx m) →
    exec (decodeWord s.regD) { s with started := false, p := s.p + 1 } = .next t →
    s.apply (.panel .step) = .next t.complete.toIdle) ∧
  (∀ u : State, (u.dio ≠ none → u.complete = u) ∧ (u.dio = none → u.completed u.complete))

/-- In the wait condition, with nothing to recognise, and in IDLE or without power, a step executes no instruction: P
and every register stay, and only the I/O level's held signal is applied. The loss of power, by the supply or by the
POWER switch, stops the machine and keeps core memory and devices, and so does the return of power, which signals the
power on level; what the registers then hold is free (log entry 39) (60_exceptions.md R293, R313, R324,
70_reset_and_hazards.md R342). -/
def Obligations.WaitExecutesNothing : Prop :=
  (∀ (s : State), s.env = [] → s.dio = none → s.running = true → s.parityHalt = false → s.wff = true →
    s.ioSignal.claimant = none →
    ∃ t, step s = .next t ∧ { s with parityFaults := [] }.lineApplied t) ∧
  (∀ (s : State), s.env = [] → s.dio = none → s.running = false →
    ∃ t, step s = .next t ∧ { s with parityFaults := [] }.lineApplied t) ∧
  (∀ (s : State), s.powered = true →
    (∃ t, s.apply .powerLost = .next t ∧ t.running = false ∧ t.idle = false ∧ t.dio = none ∧ t.mem = s.mem ∧
      t.devices = s.devices) ∧
    (∃ t, s.apply (.panel (.power false)) = .next t ∧ t.running = false ∧ t.idle = false ∧ t.dio = none ∧
      t.mem = s.mem ∧ t.devices = s.devices)) ∧
  (∀ (s : State) (event : Event), s.powered = false →
    (event = .powerOn ∧ s.panel.power = true ∨ event = .panel (.power true) ∧ s.supply = true) →
    ∃ t, s.apply event = .next t ∧ t.powered = true ∧ t.mem = s.mem ∧ t.devices = s.devices ∧ t.cfg = s.cfg ∧
      (s.cfg.hasPowerFailSafe = true → (t.level powerOnLevel).state ≠ .armed))

/-- The panel. INITIALIZE RESET, operative in IDLE with the key unlocked: PP on if the option is installed, the
inhibits, O, C, WFF, the parity indicator and halt off, S cleared, the installed override levels armed and enabled and
every other level disarmed and disabled, every device ready with nothing pending. That the exit condition and the
first-instruction hold are 0 is the spec's decision D20; that everything else stays, the held connector command and the
Watchdog Timer among it, is the model's reading, log entry 25. INITIALIZE LOAD clears A and P, sets the load condition
and sets up SIO in D; STORE, FETCH, INCREMENT ADDRESS, CLEAR and ENTER act on memory and on the register that SELECT
names, in every one of its positions; COMPUTE to RUN takes the instruction in D first, at H, and COMPUTE to IDLE brings
the next one to D (its details are log entries 15 and 24). Outside IDLE these switches have no effect (60_exceptions.md
R323, 70_reset_and_hazards.md R340, R341, R343, R345, 92_eei_decisions.md D20). -/
def Obligations.ResetInitializes : Prop :=
  (∀ (s : State), s.idle = true →
    ∃ t, s.apply (.panel .reset) = .next t ∧
      t = { s with
        pp := s.cfg.hasProtection
        ii := false
        ei := false
        o := false
        c := false
        parityIndicator := false
        parityHalt := false
        regS := 0
        wff := false
        exitCondition := false
        hold := false
        levels := t.levels
        devices := s.devices.map fun d =>
          { d with
            condition := .ready, controller := .ready, unusualEnd := false, pending := false, phase := .quiet } } ∧
      ∀ level : Level, t.level level =
        if isOverride level ∧ installed s.cfg level = true then ⟨.armed, true⟩ else ⟨.disarmed, false⟩) ∧
  (∀ (s : State), s.idle = true →
    s.apply (.panel .load) = .next { s with a := 0, p := 0, loadCondition := true, regD := 0x1041#16 } ∧
    s.apply (.panel .memoryStore) = .next (s.writeWord s.regS s.regD) ∧
    (s.parityError s.regS = false → s.apply (.panel .memoryFetch) =
      .next { s with p := s.regS, regH := s.regS, regD := s.readWord s.regS }) ∧
    (s.parityError (s.regS + 1) = false → s.apply (.panel .incrementAddress) = .next { s with
      regS := s.regS + 1, p := s.regS + 1, regH := s.regS + 1, regD := s.readWord (s.regS + 1) }) ∧
    (∀ (shown : Word) (load : Word → State),
      shown = (match s.panel.select with
        | .e => s.e
        | .a => s.a
        | .s => s.regS
        | .d => s.regD
        | .p => s.p
        | .l => s.l
        | .t => s.t
        | .x1 => s.x1
        | .x2 => s.x2) →
      (∀ v : Word, load v = match s.panel.select with
        | .e => { s with e := v }
        | .a => { s with a := v }
        | .s => { s with regS := v }
        | .d => { s with regD := v }
        | .p => { s with p := v }
        | .l => { s with l := v }
        | .t => { s with t := v }
        | .x1 => { s with x1 := v }
        | .x2 => { s with x2 := v }) →
      s.apply (.panel .registerClear) = .next (load 0) ∧
      s.apply (.panel .registerEnter) = .next (load (shown ||| s.panel.data))) ∧
    (∀ r : PanelRegister, s.apply (.panel (.select r)) = .next { s with panel := { s.panel with select := r } }) ∧
    s.apply (.panel (.compute .run)) = .next { s with
      panel := { s.panel with compute := .run }, started := true }) ∧
  (∀ (s : State), s.mem.wf = true →
    (s.hasLocation s.regS = true → (s.writeWord s.regS s.regD).readWord s.regS = s.regD) ∧
    ∀ other : Word, other ≠ s.regS → (s.writeWord s.regS s.regD).readWord other = s.readWord other) ∧
  (∀ (s : State), s.powered = true → s.panel.key = .unlocked → s.panel.compute = .run → s.parityError s.p = false →
    s.apply (.panel (.compute .idle)) = .next { s with
      panel := { s.panel with compute := .idle }
      wff := false
      started := false
      dormant := false
      regS := s.p
      regH := s.p
      regD := s.readWord s.p }) ∧
  (∀ (s : State) (r : PanelRegister), s.idle = false →
    ∀ action ∈ [PanelAction.reset, .load, .memoryStore, .memoryFetch, .incrementAddress, .registerClear,
      .registerEnter, .step, .select r], s.apply (.panel action) = .next s)

/-- The invariant holds after reset, in every configuration (`State.Inv`; 70_reset_and_hazards.md R340). -/
def Obligations.InvariantHoldsAtReset : Prop :=
  ∀ cfg : Config, (State.resetOf cfg).Inv

/-- Every step from a state with the invariant gives a state with the invariant, and the configuration does not change
(`State.Inv`; 20_memory.md R63, 60_exceptions.md R273, R276, R292, 10_state.md R25, R27, 43_direct_control.md R222,
44_io.md R231, R247; 10_state.md R34). -/
def Obligations.EveryStepKeepsTheInvariant : Prop :=
  ∀ s t : State, s.Inv → step s = .next t → t.Inv ∧ t.cfg = s.cfg
end

