-- ==== Sys2Proof/Laws/State.lean ====
section
/-! SUPPORT. What each state operation does to each field: one lemma per field and operation, so that no later proof
unfolds a record update. -/

namespace Sys2Proof.Machine

open Sys2Proof

/-! ### writeWord -/

@[simp] theorem State.writeWord_cfg (s : State) (addr v : Word) : (s.writeWord addr v).cfg = s.cfg := rfl
@[simp] theorem State.writeWord_p (s : State) (addr v : Word) : (s.writeWord addr v).p = s.p := rfl
@[simp] theorem State.writeWord_l (s : State) (addr v : Word) : (s.writeWord addr v).l = s.l := rfl
@[simp] theorem State.writeWord_t (s : State) (addr v : Word) : (s.writeWord addr v).t = s.t := rfl
@[simp] theorem State.writeWord_x1 (s : State) (addr v : Word) : (s.writeWord addr v).x1 = s.x1 := rfl
@[simp] theorem State.writeWord_x2 (s : State) (addr v : Word) : (s.writeWord addr v).x2 = s.x2 := rfl
@[simp] theorem State.writeWord_e (s : State) (addr v : Word) : (s.writeWord addr v).e = s.e := rfl
@[simp] theorem State.writeWord_a (s : State) (addr v : Word) : (s.writeWord addr v).a = s.a := rfl
@[simp] theorem State.writeWord_regH (s : State) (addr v : Word) : (s.writeWord addr v).regH = s.regH := rfl
@[simp] theorem State.writeWord_regD (s : State) (addr v : Word) : (s.writeWord addr v).regD = s.regD := rfl
@[simp] theorem State.writeWord_regS (s : State) (addr v : Word) : (s.writeWord addr v).regS = s.regS := rfl
@[simp] theorem State.writeWord_ch (s : State) (addr v : Word) : (s.writeWord addr v).ch = s.ch := rfl
@[simp] theorem State.writeWord_pr (s : State) (addr v : Word) : (s.writeWord addr v).pr = s.pr := rfl
@[simp] theorem State.writeWord_pp (s : State) (addr v : Word) : (s.writeWord addr v).pp = s.pp := rfl
@[simp] theorem State.writeWord_ii (s : State) (addr v : Word) : (s.writeWord addr v).ii = s.ii := rfl
@[simp] theorem State.writeWord_ei (s : State) (addr v : Word) : (s.writeWord addr v).ei = s.ei := rfl
@[simp] theorem State.writeWord_o (s : State) (addr v : Word) : (s.writeWord addr v).o = s.o := rfl
@[simp] theorem State.writeWord_c (s : State) (addr v : Word) : (s.writeWord addr v).c = s.c := rfl
@[simp] theorem State.writeWord_wff (s : State) (addr v : Word) : (s.writeWord addr v).wff = s.wff := rfl
@[simp] theorem State.writeWord_exitCondition (s : State) (addr v : Word) : (s.writeWord addr v).exitCondition = s.exitCondition := rfl
@[simp] theorem State.writeWord_hold (s : State) (addr v : Word) : (s.writeWord addr v).hold = s.hold := rfl
@[simp] theorem State.writeWord_loadCondition (s : State) (addr v : Word) : (s.writeWord addr v).loadCondition = s.loadCondition := rfl
@[simp] theorem State.writeWord_parityHalt (s : State) (addr v : Word) : (s.writeWord addr v).parityHalt = s.parityHalt := rfl
@[simp] theorem State.writeWord_parityIndicator (s : State) (addr v : Word) : (s.writeWord addr v).parityIndicator = s.parityIndicator := rfl
@[simp] theorem State.writeWord_parityAddress (s : State) (addr v : Word) : (s.writeWord addr v).parityAddress = s.parityAddress := rfl
@[simp] theorem State.writeWord_levels (s : State) (addr v : Word) : (s.writeWord addr v).levels = s.levels := rfl
@[simp] theorem State.writeWord_panel (s : State) (addr v : Word) : (s.writeWord addr v).panel = s.panel := rfl
@[simp] theorem State.writeWord_started (s : State) (addr v : Word) : (s.writeWord addr v).started = s.started := rfl
@[simp] theorem State.writeWord_supply (s : State) (addr v : Word) : (s.writeWord addr v).supply = s.supply := rfl
@[simp] theorem State.writeWord_dormant (s : State) (addr v : Word) : (s.writeWord addr v).dormant = s.dormant := rfl
@[simp] theorem State.writeWord_devices (s : State) (addr v : Word) : (s.writeWord addr v).devices = s.devices := rfl
@[simp] theorem State.writeWord_dio (s : State) (addr v : Word) : (s.writeWord addr v).dio = s.dio := rfl
@[simp] theorem State.writeWord_dioOut (s : State) (addr v : Word) : (s.writeWord addr v).dioOut = s.dioOut := rfl
@[simp] theorem State.writeWord_dioReplies (s : State) (addr v : Word) : (s.writeWord addr v).dioReplies = s.dioReplies := rfl
@[simp] theorem State.writeWord_wdEnabled (s : State) (addr v : Word) : (s.writeWord addr v).wdEnabled = s.wdEnabled := rfl
@[simp] theorem State.writeWord_wdHangup (s : State) (addr v : Word) : (s.writeWord addr v).wdHangup = s.wdHangup := rfl
@[simp] theorem State.writeWord_dioFailure (s : State) (addr v : Word) : (s.writeWord addr v).dioFailure = s.dioFailure := rfl
@[simp] theorem State.writeWord_parityFaults (s : State) (addr v : Word) : (s.writeWord addr v).parityFaults = s.parityFaults := rfl
@[simp] theorem State.writeWord_env (s : State) (addr v : Word) : (s.writeWord addr v).env = s.env := rfl
@[simp] theorem State.writeWord_free (s : State) (addr v : Word) : (s.writeWord addr v).free = s.free := rfl

@[simp] theorem State.writeWord_mem (s : State) (addr v : Word) :
    (s.writeWord addr v).mem =
      if s.hasLocation addr then (s.mem.setByte (2 * addr.toNat) v.hi).setByte (2 * addr.toNat + 1) v.lo else s.mem := rfl

/-! ### writeHalf -/

@[simp] theorem State.writeHalf_cfg (s : State) (addr : Word) (right : Bool) (v : Byte) : (s.writeHalf addr right v).cfg = s.cfg := rfl
@[simp] theorem State.writeHalf_p (s : State) (addr : Word) (right : Bool) (v : Byte) : (s.writeHalf addr right v).p = s.p := rfl
@[simp] theorem State.writeHalf_l (s : State) (addr : Word) (right : Bool) (v : Byte) : (s.writeHalf addr right v).l = s.l := rfl
@[simp] theorem State.writeHalf_t (s : State) (addr : Word) (right : Bool) (v : Byte) : (s.writeHalf addr right v).t = s.t := rfl
@[simp] theorem State.writeHalf_x1 (s : State) (addr : Word) (right : Bool) (v : Byte) : (s.writeHalf addr right v).x1 = s.x1 := rfl
@[simp] theorem State.writeHalf_x2 (s : State) (addr : Word) (right : Bool) (v : Byte) : (s.writeHalf addr right v).x2 = s.x2 := rfl
@[simp] theorem State.writeHalf_e (s : State) (addr : Word) (right : Bool) (v : Byte) : (s.writeHalf addr right v).e = s.e := rfl
@[simp] theorem State.writeHalf_a (s : State) (addr : Word) (right : Bool) (v : Byte) : (s.writeHalf addr right v).a = s.a := rfl
@[simp] theorem State.writeHalf_regH (s : State) (addr : Word) (right : Bool) (v : Byte) : (s.writeHalf addr right v).regH = s.regH := rfl
@[simp] theorem State.writeHalf_regD (s : State) (addr : Word) (right : Bool) (v : Byte) : (s.writeHalf addr right v).regD = s.regD := rfl
@[simp] theorem State.writeHalf_regS (s : State) (addr : Word) (right : Bool) (v : Byte) : (s.writeHalf addr right v).regS = s.regS := rfl
@[simp] theorem State.writeHalf_ch (s : State) (addr : Word) (right : Bool) (v : Byte) : (s.writeHalf addr right v).ch = s.ch := rfl
@[simp] theorem State.writeHalf_pr (s : State) (addr : Word) (right : Bool) (v : Byte) : (s.writeHalf addr right v).pr = s.pr := rfl
@[simp] theorem State.writeHalf_pp (s : State) (addr : Word) (right : Bool) (v : Byte) : (s.writeHalf addr right v).pp = s.pp := rfl
@[simp] theorem State.writeHalf_ii (s : State) (addr : Word) (right : Bool) (v : Byte) : (s.writeHalf addr right v).ii = s.ii := rfl
@[simp] theorem State.writeHalf_ei (s : State) (addr : Word) (right : Bool) (v : Byte) : (s.writeHalf addr right v).ei = s.ei := rfl
@[simp] theorem State.writeHalf_o (s : State) (addr : Word) (right : Bool) (v : Byte) : (s.writeHalf addr right v).o = s.o := rfl
@[simp] theorem State.writeHalf_c (s : State) (addr : Word) (right : Bool) (v : Byte) : (s.writeHalf addr right v).c = s.c := rfl
@[simp] theorem State.writeHalf_wff (s : State) (addr : Word) (right : Bool) (v : Byte) : (s.writeHalf addr right v).wff = s.wff := rfl
@[simp] theorem State.writeHalf_exitCondition (s : State) (addr : Word) (right : Bool) (v : Byte) : (s.writeHalf addr right v).exitCondition = s.exitCondition := rfl
@[simp] theorem State.writeHalf_hold (s : State) (addr : Word) (right : Bool) (v : Byte) : (s.writeHalf addr right v).hold = s.hold := rfl
@[simp] theorem State.writeHalf_loadCondition (s : State) (addr : Word) (right : Bool) (v : Byte) : (s.writeHalf addr right v).loadCondition = s.loadCondition := rfl
@[simp] theorem State.writeHalf_parityHalt (s : State) (addr : Word) (right : Bool) (v : Byte) : (s.writeHalf addr right v).parityHalt = s.parityHalt := rfl
@[simp] theorem State.writeHalf_parityIndicator (s : State) (addr : Word) (right : Bool) (v : Byte) : (s.writeHalf addr right v).parityIndicator = s.parityIndicator := rfl
@[simp] theorem State.writeHalf_parityAddress (s : State) (addr : Word) (right : Bool) (v : Byte) : (s.writeHalf addr right v).parityAddress = s.parityAddress := rfl
@[simp] theorem State.writeHalf_levels (s : State) (addr : Word) (right : Bool) (v : Byte) : (s.writeHalf addr right v).levels = s.levels := rfl
@[simp] theorem State.writeHalf_panel (s : State) (addr : Word) (right : Bool) (v : Byte) : (s.writeHalf addr right v).panel = s.panel := rfl
@[simp] theorem State.writeHalf_started (s : State) (addr : Word) (right : Bool) (v : Byte) : (s.writeHalf addr right v).started = s.started := rfl
@[simp] theorem State.writeHalf_supply (s : State) (addr : Word) (right : Bool) (v : Byte) : (s.writeHalf addr right v).supply = s.supply := rfl
@[simp] theorem State.writeHalf_dormant (s : State) (addr : Word) (right : Bool) (v : Byte) : (s.writeHalf addr right v).dormant = s.dormant := rfl
@[simp] theorem State.writeHalf_devices (s : State) (addr : Word) (right : Bool) (v : Byte) : (s.writeHalf addr right v).devices = s.devices := rfl
@[simp] theorem State.writeHalf_dio (s : State) (addr : Word) (right : Bool) (v : Byte) : (s.writeHalf addr right v).dio = s.dio := rfl
@[simp] theorem State.writeHalf_dioOut (s : State) (addr : Word) (right : Bool) (v : Byte) : (s.writeHalf addr right v).dioOut = s.dioOut := rfl
@[simp] theorem State.writeHalf_dioReplies (s : State) (addr : Word) (right : Bool) (v : Byte) : (s.writeHalf addr right v).dioReplies = s.dioReplies := rfl
@[simp] theorem State.writeHalf_wdEnabled (s : State) (addr : Word) (right : Bool) (v : Byte) : (s.writeHalf addr right v).wdEnabled = s.wdEnabled := rfl
@[simp] theorem State.writeHalf_wdHangup (s : State) (addr : Word) (right : Bool) (v : Byte) : (s.writeHalf addr right v).wdHangup = s.wdHangup := rfl
@[simp] theorem State.writeHalf_dioFailure (s : State) (addr : Word) (right : Bool) (v : Byte) : (s.writeHalf addr right v).dioFailure = s.dioFailure := rfl
@[simp] theorem State.writeHalf_parityFaults (s : State) (addr : Word) (right : Bool) (v : Byte) : (s.writeHalf addr right v).parityFaults = s.parityFaults := rfl
@[simp] theorem State.writeHalf_env (s : State) (addr : Word) (right : Bool) (v : Byte) : (s.writeHalf addr right v).env = s.env := rfl
@[simp] theorem State.writeHalf_free (s : State) (addr : Word) (right : Bool) (v : Byte) : (s.writeHalf addr right v).free = s.free := rfl

@[simp] theorem State.writeHalf_mem (s : State) (addr : Word) (right : Bool) (v : Byte) :
    (s.writeHalf addr right v).mem =
      if s.hasLocation addr then s.mem.setByte (2 * addr.toNat + right.toNat) v else s.mem := rfl

/-! ### setGpr -/

@[simp] theorem State.setGpr_cfg (s : State) (r : Gpr) (v : Word) : (s.setGpr r v).cfg = s.cfg := by cases r <;> rfl
@[simp] theorem State.setGpr_regH (s : State) (r : Gpr) (v : Word) : (s.setGpr r v).regH = s.regH := by cases r <;> rfl
@[simp] theorem State.setGpr_regD (s : State) (r : Gpr) (v : Word) : (s.setGpr r v).regD = s.regD := by cases r <;> rfl
@[simp] theorem State.setGpr_regS (s : State) (r : Gpr) (v : Word) : (s.setGpr r v).regS = s.regS := by cases r <;> rfl
@[simp] theorem State.setGpr_ch (s : State) (r : Gpr) (v : Word) : (s.setGpr r v).ch = s.ch := by cases r <;> rfl
@[simp] theorem State.setGpr_pr (s : State) (r : Gpr) (v : Word) : (s.setGpr r v).pr = s.pr := by cases r <;> rfl
@[simp] theorem State.setGpr_pp (s : State) (r : Gpr) (v : Word) : (s.setGpr r v).pp = s.pp := by cases r <;> rfl
@[simp] theorem State.setGpr_ii (s : State) (r : Gpr) (v : Word) : (s.setGpr r v).ii = s.ii := by cases r <;> rfl
@[simp] theorem State.setGpr_ei (s : State) (r : Gpr) (v : Word) : (s.setGpr r v).ei = s.ei := by cases r <;> rfl
@[simp] theorem State.setGpr_o (s : State) (r : Gpr) (v : Word) : (s.setGpr r v).o = s.o := by cases r <;> rfl
@[simp] theorem State.setGpr_c (s : State) (r : Gpr) (v : Word) : (s.setGpr r v).c = s.c := by cases r <;> rfl
@[simp] theorem State.setGpr_wff (s : State) (r : Gpr) (v : Word) : (s.setGpr r v).wff = s.wff := by cases r <;> rfl
@[simp] theorem State.setGpr_exitCondition (s : State) (r : Gpr) (v : Word) : (s.setGpr r v).exitCondition = s.exitCondition := by cases r <;> rfl
@[simp] theorem State.setGpr_hold (s : State) (r : Gpr) (v : Word) : (s.setGpr r v).hold = s.hold := by cases r <;> rfl
@[simp] theorem State.setGpr_loadCondition (s : State) (r : Gpr) (v : Word) : (s.setGpr r v).loadCondition = s.loadCondition := by cases r <;> rfl
@[simp] theorem State.setGpr_parityHalt (s : State) (r : Gpr) (v : Word) : (s.setGpr r v).parityHalt = s.parityHalt := by cases r <;> rfl
@[simp] theorem State.setGpr_parityIndicator (s : State) (r : Gpr) (v : Word) : (s.setGpr r v).parityIndicator = s.parityIndicator := by cases r <;> rfl
@[simp] theorem State.setGpr_parityAddress (s : State) (r : Gpr) (v : Word) : (s.setGpr r v).parityAddress = s.parityAddress := by cases r <;> rfl
@[simp] theorem State.setGpr_levels (s : State) (r : Gpr) (v : Word) : (s.setGpr r v).levels = s.levels := by cases r <;> rfl
@[simp] theorem State.setGpr_mem (s : State) (r : Gpr) (v : Word) : (s.setGpr r v).mem = s.mem := by cases r <;> rfl
@[simp] theorem State.setGpr_panel (s : State) (r : Gpr) (v : Word) : (s.setGpr r v).panel = s.panel := by cases r <;> rfl
@[simp] theorem State.setGpr_started (s : State) (r : Gpr) (v : Word) : (s.setGpr r v).started = s.started := by cases r <;> rfl
@[simp] theorem State.setGpr_supply (s : State) (r : Gpr) (v : Word) : (s.setGpr r v).supply = s.supply := by cases r <;> rfl
@[simp] theorem State.setGpr_dormant (s : State) (r : Gpr) (v : Word) : (s.setGpr r v).dormant = s.dormant := by cases r <;> rfl
@[simp] theorem State.setGpr_devices (s : State) (r : Gpr) (v : Word) : (s.setGpr r v).devices = s.devices := by cases r <;> rfl
@[simp] theorem State.setGpr_dio (s : State) (r : Gpr) (v : Word) : (s.setGpr r v).dio = s.dio := by cases r <;> rfl
@[simp] theorem State.setGpr_dioOut (s : State) (r : Gpr) (v : Word) : (s.setGpr r v).dioOut = s.dioOut := by cases r <;> rfl
@[simp] theorem State.setGpr_dioReplies (s : State) (r : Gpr) (v : Word) : (s.setGpr r v).dioReplies = s.dioReplies := by cases r <;> rfl
@[simp] theorem State.setGpr_wdEnabled (s : State) (r : Gpr) (v : Word) : (s.setGpr r v).wdEnabled = s.wdEnabled := by cases r <;> rfl
@[simp] theorem State.setGpr_wdHangup (s : State) (r : Gpr) (v : Word) : (s.setGpr r v).wdHangup = s.wdHangup := by cases r <;> rfl
@[simp] theorem State.setGpr_dioFailure (s : State) (r : Gpr) (v : Word) : (s.setGpr r v).dioFailure = s.dioFailure := by cases r <;> rfl
@[simp] theorem State.setGpr_parityFaults (s : State) (r : Gpr) (v : Word) : (s.setGpr r v).parityFaults = s.parityFaults := by cases r <;> rfl
@[simp] theorem State.setGpr_env (s : State) (r : Gpr) (v : Word) : (s.setGpr r v).env = s.env := by cases r <;> rfl
@[simp] theorem State.setGpr_free (s : State) (r : Gpr) (v : Word) : (s.setGpr r v).free = s.free := by cases r <;> rfl

/-- Register 0 keeps nothing; any other register reads back what was loaded. -/
theorem State.setGpr_gpr (s : State) (r k : Gpr) (v : Word) :
    (s.setGpr r v).gpr k = if k = r ∧ r ≠ .z then v else s.gpr k := by
  cases r <;> cases k <;> rfl

/-! ### setChannel -/

@[simp] theorem State.setChannel_cfg (s : State) (k : Nat) (v : Word) : (s.setChannel k v).cfg = s.cfg := by unfold State.setChannel; split <;> rfl
@[simp] theorem State.setChannel_p (s : State) (k : Nat) (v : Word) : (s.setChannel k v).p = s.p := by unfold State.setChannel; split <;> rfl
@[simp] theorem State.setChannel_l (s : State) (k : Nat) (v : Word) : (s.setChannel k v).l = s.l := by unfold State.setChannel; split <;> rfl
@[simp] theorem State.setChannel_t (s : State) (k : Nat) (v : Word) : (s.setChannel k v).t = s.t := by unfold State.setChannel; split <;> rfl
@[simp] theorem State.setChannel_x1 (s : State) (k : Nat) (v : Word) : (s.setChannel k v).x1 = s.x1 := by unfold State.setChannel; split <;> rfl
@[simp] theorem State.setChannel_x2 (s : State) (k : Nat) (v : Word) : (s.setChannel k v).x2 = s.x2 := by unfold State.setChannel; split <;> rfl
@[simp] theorem State.setChannel_e (s : State) (k : Nat) (v : Word) : (s.setChannel k v).e = s.e := by unfold State.setChannel; split <;> rfl
@[simp] theorem State.setChannel_a (s : State) (k : Nat) (v : Word) : (s.setChannel k v).a = s.a := by unfold State.setChannel; split <;> rfl
@[simp] theorem State.setChannel_regH (s : State) (k : Nat) (v : Word) : (s.setChannel k v).regH = s.regH := by unfold State.setChannel; split <;> rfl
@[simp] theorem State.setChannel_regD (s : State) (k : Nat) (v : Word) : (s.setChannel k v).regD = s.regD := by unfold State.setChannel; split <;> rfl
@[simp] theorem State.setChannel_regS (s : State) (k : Nat) (v : Word) : (s.setChannel k v).regS = s.regS := by unfold State.setChannel; split <;> rfl
@[simp] theorem State.setChannel_pr (s : State) (k : Nat) (v : Word) : (s.setChannel k v).pr = s.pr := by unfold State.setChannel; split <;> rfl
@[simp] theorem State.setChannel_pp (s : State) (k : Nat) (v : Word) : (s.setChannel k v).pp = s.pp := by unfold State.setChannel; split <;> rfl
@[simp] theorem State.setChannel_ii (s : State) (k : Nat) (v : Word) : (s.setChannel k v).ii = s.ii := by unfold State.setChannel; split <;> rfl
@[simp] theorem State.setChannel_ei (s : State) (k : Nat) (v : Word) : (s.setChannel k v).ei = s.ei := by unfold State.setChannel; split <;> rfl
@[simp] theorem State.setChannel_o (s : State) (k : Nat) (v : Word) : (s.setChannel k v).o = s.o := by unfold State.setChannel; split <;> rfl
@[simp] theorem State.setChannel_c (s : State) (k : Nat) (v : Word) : (s.setChannel k v).c = s.c := by unfold State.setChannel; split <;> rfl
@[simp] theorem State.setChannel_wff (s : State) (k : Nat) (v : Word) : (s.setChannel k v).wff = s.wff := by unfold State.setChannel; split <;> rfl
@[simp] theorem State.setChannel_exitCondition (s : State) (k : Nat) (v : Word) : (s.setChannel k v).exitCondition = s.exitCondition := by unfold State.setChannel; split <;> rfl
@[simp] theorem State.setChannel_hold (s : State) (k : Nat) (v : Word) : (s.setChannel k v).hold = s.hold := by unfold State.setChannel; split <;> rfl
@[simp] theorem State.setChannel_loadCondition (s : State) (k : Nat) (v : Word) : (s.setChannel k v).loadCondition = s.loadCondition := by unfold State.setChannel; split <;> rfl
@[simp] theorem State.setChannel_parityHalt (s : State) (k : Nat) (v : Word) : (s.setChannel k v).parityHalt = s.parityHalt := by unfold State.setChannel; split <;> rfl
@[simp] theorem State.setChannel_parityIndicator (s : State) (k : Nat) (v : Word) : (s.setChannel k v).parityIndicator = s.parityIndicator := by unfold State.setChannel; split <;> rfl
@[simp] theorem State.setChannel_parityAddress (s : State) (k : Nat) (v : Word) : (s.setChannel k v).parityAddress = s.parityAddress := by unfold State.setChannel; split <;> rfl
@[simp] theorem State.setChannel_levels (s : State) (k : Nat) (v : Word) : (s.setChannel k v).levels = s.levels := by unfold State.setChannel; split <;> rfl
@[simp] theorem State.setChannel_mem (s : State) (k : Nat) (v : Word) : (s.setChannel k v).mem = s.mem := by unfold State.setChannel; split <;> rfl
@[simp] theorem State.setChannel_panel (s : State) (k : Nat) (v : Word) : (s.setChannel k v).panel = s.panel := by unfold State.setChannel; split <;> rfl
@[simp] theorem State.setChannel_started (s : State) (k : Nat) (v : Word) : (s.setChannel k v).started = s.started := by unfold State.setChannel; split <;> rfl
@[simp] theorem State.setChannel_supply (s : State) (k : Nat) (v : Word) : (s.setChannel k v).supply = s.supply := by unfold State.setChannel; split <;> rfl
@[simp] theorem State.setChannel_dormant (s : State) (k : Nat) (v : Word) : (s.setChannel k v).dormant = s.dormant := by unfold State.setChannel; split <;> rfl
@[simp] theorem State.setChannel_devices (s : State) (k : Nat) (v : Word) : (s.setChannel k v).devices = s.devices := by unfold State.setChannel; split <;> rfl
@[simp] theorem State.setChannel_dio (s : State) (k : Nat) (v : Word) : (s.setChannel k v).dio = s.dio := by unfold State.setChannel; split <;> rfl
@[simp] theorem State.setChannel_dioOut (s : State) (k : Nat) (v : Word) : (s.setChannel k v).dioOut = s.dioOut := by unfold State.setChannel; split <;> rfl
@[simp] theorem State.setChannel_dioReplies (s : State) (k : Nat) (v : Word) : (s.setChannel k v).dioReplies = s.dioReplies := by unfold State.setChannel; split <;> rfl
@[simp] theorem State.setChannel_wdEnabled (s : State) (k : Nat) (v : Word) : (s.setChannel k v).wdEnabled = s.wdEnabled := by unfold State.setChannel; split <;> rfl
@[simp] theorem State.setChannel_wdHangup (s : State) (k : Nat) (v : Word) : (s.setChannel k v).wdHangup = s.wdHangup := by unfold State.setChannel; split <;> rfl
@[simp] theorem State.setChannel_dioFailure (s : State) (k : Nat) (v : Word) : (s.setChannel k v).dioFailure = s.dioFailure := by unfold State.setChannel; split <;> rfl
@[simp] theorem State.setChannel_parityFaults (s : State) (k : Nat) (v : Word) : (s.setChannel k v).parityFaults = s.parityFaults := by unfold State.setChannel; split <;> rfl
@[simp] theorem State.setChannel_env (s : State) (k : Nat) (v : Word) : (s.setChannel k v).env = s.env := by unfold State.setChannel; split <;> rfl
@[simp] theorem State.setChannel_free (s : State) (k : Nat) (v : Word) : (s.setChannel k v).free = s.free := by unfold State.setChannel; split <;> rfl

/-! ### setLevel -/

@[simp] theorem State.setLevel_cfg (s : State) (level : Level) (cell : LevelCell) : (s.setLevel level cell).cfg = s.cfg := rfl
@[simp] theorem State.setLevel_p (s : State) (level : Level) (cell : LevelCell) : (s.setLevel level cell).p = s.p := rfl
@[simp] theorem State.setLevel_l (s : State) (level : Level) (cell : LevelCell) : (s.setLevel level cell).l = s.l := rfl
@[simp] theorem State.setLevel_t (s : State) (level : Level) (cell : LevelCell) : (s.setLevel level cell).t = s.t := rfl
@[simp] theorem State.setLevel_x1 (s : State) (level : Level) (cell : LevelCell) : (s.setLevel level cell).x1 = s.x1 := rfl
@[simp] theorem State.setLevel_x2 (s : State) (level : Level) (cell : LevelCell) : (s.setLevel level cell).x2 = s.x2 := rfl
@[simp] theorem State.setLevel_e (s : State) (level : Level) (cell : LevelCell) : (s.setLevel level cell).e = s.e := rfl
@[simp] theorem State.setLevel_a (s : State) (level : Level) (cell : LevelCell) : (s.setLevel level cell).a = s.a := rfl
@[simp] theorem State.setLevel_regH (s : State) (level : Level) (cell : LevelCell) : (s.setLevel level cell).regH = s.regH := rfl
@[simp] theorem State.setLevel_regD (s : State) (level : Level) (cell : LevelCell) : (s.setLevel level cell).regD = s.regD := rfl
@[simp] theorem State.setLevel_regS (s : State) (level : Level) (cell : LevelCell) : (s.setLevel level cell).regS = s.regS := rfl
@[simp] theorem State.setLevel_ch (s : State) (level : Level) (cell : LevelCell) : (s.setLevel level cell).ch = s.ch := rfl
@[simp] theorem State.setLevel_pr (s : State) (level : Level) (cell : LevelCell) : (s.setLevel level cell).pr = s.pr := rfl
@[simp] theorem State.setLevel_pp (s : State) (level : Level) (cell : LevelCell) : (s.setLevel level cell).pp = s.pp := rfl
@[simp] theorem State.setLevel_ii (s : State) (level : Level) (cell : LevelCell) : (s.setLevel level cell).ii = s.ii := rfl
@[simp] theorem State.setLevel_ei (s : State) (level : Level) (cell : LevelCell) : (s.setLevel level cell).ei = s.ei := rfl
@[simp] theorem State.setLevel_o (s : State) (level : Level) (cell : LevelCell) : (s.setLevel level cell).o = s.o := rfl
@[simp] theorem State.setLevel_c (s : State) (level : Level) (cell : LevelCell) : (s.setLevel level cell).c = s.c := rfl
@[simp] theorem State.setLevel_wff (s : State) (level : Level) (cell : LevelCell) : (s.setLevel level cell).wff = s.wff := rfl
@[simp] theorem State.setLevel_exitCondition (s : State) (level : Level) (cell : LevelCell) : (s.setLevel level cell).exitCondition = s.exitCondition := rfl
@[simp] theorem State.setLevel_hold (s : State) (level : Level) (cell : LevelCell) : (s.setLevel level cell).hold = s.hold := rfl
@[simp] theorem State.setLevel_loadCondition (s : State) (level : Level) (cell : LevelCell) : (s.setLevel level cell).loadCondition = s.loadCondition := rfl
@[simp] theorem State.setLevel_parityHalt (s : State) (level : Level) (cell : LevelCell) : (s.setLevel level cell).parityHalt = s.parityHalt := rfl
@[simp] theorem State.setLevel_parityIndicator (s : State) (level : Level) (cell : LevelCell) : (s.setLevel level cell).parityIndicator = s.parityIndicator := rfl
@[simp] theorem State.setLevel_parityAddress (s : State) (level : Level) (cell : LevelCell) : (s.setLevel level cell).parityAddress = s.parityAddress := rfl
@[simp] theorem State.setLevel_mem (s : State) (level : Level) (cell : LevelCell) : (s.setLevel level cell).mem = s.mem := rfl
@[simp] theorem State.setLevel_panel (s : State) (level : Level) (cell : LevelCell) : (s.setLevel level cell).panel = s.panel := rfl
@[simp] theorem State.setLevel_started (s : State) (level : Level) (cell : LevelCell) : (s.setLevel level cell).started = s.started := rfl
@[simp] theorem State.setLevel_supply (s : State) (level : Level) (cell : LevelCell) : (s.setLevel level cell).supply = s.supply := rfl
@[simp] theorem State.setLevel_dormant (s : State) (level : Level) (cell : LevelCell) : (s.setLevel level cell).dormant = s.dormant := rfl
@[simp] theorem State.setLevel_devices (s : State) (level : Level) (cell : LevelCell) : (s.setLevel level cell).devices = s.devices := rfl
@[simp] theorem State.setLevel_dio (s : State) (level : Level) (cell : LevelCell) : (s.setLevel level cell).dio = s.dio := rfl
@[simp] theorem State.setLevel_dioOut (s : State) (level : Level) (cell : LevelCell) : (s.setLevel level cell).dioOut = s.dioOut := rfl
@[simp] theorem State.setLevel_dioReplies (s : State) (level : Level) (cell : LevelCell) : (s.setLevel level cell).dioReplies = s.dioReplies := rfl
@[simp] theorem State.setLevel_wdEnabled (s : State) (level : Level) (cell : LevelCell) : (s.setLevel level cell).wdEnabled = s.wdEnabled := rfl
@[simp] theorem State.setLevel_wdHangup (s : State) (level : Level) (cell : LevelCell) : (s.setLevel level cell).wdHangup = s.wdHangup := rfl
@[simp] theorem State.setLevel_dioFailure (s : State) (level : Level) (cell : LevelCell) : (s.setLevel level cell).dioFailure = s.dioFailure := rfl
@[simp] theorem State.setLevel_parityFaults (s : State) (level : Level) (cell : LevelCell) : (s.setLevel level cell).parityFaults = s.parityFaults := rfl
@[simp] theorem State.setLevel_env (s : State) (level : Level) (cell : LevelCell) : (s.setLevel level cell).env = s.env := rfl
@[simp] theorem State.setLevel_free (s : State) (level : Level) (cell : LevelCell) : (s.setLevel level cell).free = s.free := rfl

@[simp] theorem State.setLevel_levels (s : State) (level : Level) (cell : LevelCell) :
    (s.setLevel level cell).levels = s.levels.set level.val cell := rfl

/-- The flip-flops of a level after one level is set. -/
theorem State.setLevel_level (s : State) (level k : Level) (cell : LevelCell) :
    (s.setLevel level cell).level k = if k = level then cell else s.level k := by
  simp only [State.level, State.setLevel_levels, Vector.getElem_set]
  by_cases h : level = k
  · subst h; simp
  · have : level.val ≠ k.val := fun e => h (Fin.ext e)
    simp [this, Ne.symm h]

/-! ### setLevelState -/

@[simp] theorem State.setLevelState_cfg (s : State) (level : Level) (st : LevelState) : (s.setLevelState level st).cfg = s.cfg := rfl
@[simp] theorem State.setLevelState_p (s : State) (level : Level) (st : LevelState) : (s.setLevelState level st).p = s.p := rfl
@[simp] theorem State.setLevelState_l (s : State) (level : Level) (st : LevelState) : (s.setLevelState level st).l = s.l := rfl
@[simp] theorem State.setLevelState_t (s : State) (level : Level) (st : LevelState) : (s.setLevelState level st).t = s.t := rfl
@[simp] theorem State.setLevelState_x1 (s : State) (level : Level) (st : LevelState) : (s.setLevelState level st).x1 = s.x1 := rfl
@[simp] theorem State.setLevelState_x2 (s : State) (level : Level) (st : LevelState) : (s.setLevelState level st).x2 = s.x2 := rfl
@[simp] theorem State.setLevelState_e (s : State) (level : Level) (st : LevelState) : (s.setLevelState level st).e = s.e := rfl
@[simp] theorem State.setLevelState_a (s : State) (level : Level) (st : LevelState) : (s.setLevelState level st).a = s.a := rfl
@[simp] theorem State.setLevelState_regH (s : State) (level : Level) (st : LevelState) : (s.setLevelState level st).regH = s.regH := rfl
@[simp] theorem State.setLevelState_regD (s : State) (level : Level) (st : LevelState) : (s.setLevelState level st).regD = s.regD := rfl
@[simp] theorem State.setLevelState_regS (s : State) (level : Level) (st : LevelState) : (s.setLevelState level st).regS = s.regS := rfl
@[simp] theorem State.setLevelState_ch (s : State) (level : Level) (st : LevelState) : (s.setLevelState level st).ch = s.ch := rfl
@[simp] theorem State.setLevelState_pr (s : State) (level : Level) (st : LevelState) : (s.setLevelState level st).pr = s.pr := rfl
@[simp] theorem State.setLevelState_pp (s : State) (level : Level) (st : LevelState) : (s.setLevelState level st).pp = s.pp := rfl
@[simp] theorem State.setLevelState_ii (s : State) (level : Level) (st : LevelState) : (s.setLevelState level st).ii = s.ii := rfl
@[simp] theorem State.setLevelState_ei (s : State) (level : Level) (st : LevelState) : (s.setLevelState level st).ei = s.ei := rfl
@[simp] theorem State.setLevelState_o (s : State) (level : Level) (st : LevelState) : (s.setLevelState level st).o = s.o := rfl
@[simp] theorem State.setLevelState_c (s : State) (level : Level) (st : LevelState) : (s.setLevelState level st).c = s.c := rfl
@[simp] theorem State.setLevelState_wff (s : State) (level : Level) (st : LevelState) : (s.setLevelState level st).wff = s.wff := rfl
@[simp] theorem State.setLevelState_exitCondition (s : State) (level : Level) (st : LevelState) : (s.setLevelState level st).exitCondition = s.exitCondition := rfl
@[simp] theorem State.setLevelState_hold (s : State) (level : Level) (st : LevelState) : (s.setLevelState level st).hold = s.hold := rfl
@[simp] theorem State.setLevelState_loadCondition (s : State) (level : Level) (st : LevelState) : (s.setLevelState level st).loadCondition = s.loadCondition := rfl
@[simp] theorem State.setLevelState_parityHalt (s : State) (level : Level) (st : LevelState) : (s.setLevelState level st).parityHalt = s.parityHalt := rfl
@[simp] theorem State.setLevelState_parityIndicator (s : State) (level : Level) (st : LevelState) : (s.setLevelState level st).parityIndicator = s.parityIndicator := rfl
@[simp] theorem State.setLevelState_parityAddress (s : State) (level : Level) (st : LevelState) : (s.setLevelState level st).parityAddress = s.parityAddress := rfl
@[simp] theorem State.setLevelState_mem (s : State) (level : Level) (st : LevelState) : (s.setLevelState level st).mem = s.mem := rfl
@[simp] theorem State.setLevelState_panel (s : State) (level : Level) (st : LevelState) : (s.setLevelState level st).panel = s.panel := rfl
@[simp] theorem State.setLevelState_started (s : State) (level : Level) (st : LevelState) : (s.setLevelState level st).started = s.started := rfl
@[simp] theorem State.setLevelState_supply (s : State) (level : Level) (st : LevelState) : (s.setLevelState level st).supply = s.supply := rfl
@[simp] theorem State.setLevelState_dormant (s : State) (level : Level) (st : LevelState) : (s.setLevelState level st).dormant = s.dormant := rfl
@[simp] theorem State.setLevelState_devices (s : State) (level : Level) (st : LevelState) : (s.setLevelState level st).devices = s.devices := rfl
@[simp] theorem State.setLevelState_dio (s : State) (level : Level) (st : LevelState) : (s.setLevelState level st).dio = s.dio := rfl
@[simp] theorem State.setLevelState_dioOut (s : State) (level : Level) (st : LevelState) : (s.setLevelState level st).dioOut = s.dioOut := rfl
@[simp] theorem State.setLevelState_dioReplies (s : State) (level : Level) (st : LevelState) : (s.setLevelState level st).dioReplies = s.dioReplies := rfl
@[simp] theorem State.setLevelState_wdEnabled (s : State) (level : Level) (st : LevelState) : (s.setLevelState level st).wdEnabled = s.wdEnabled := rfl
@[simp] theorem State.setLevelState_wdHangup (s : State) (level : Level) (st : LevelState) : (s.setLevelState level st).wdHangup = s.wdHangup := rfl
@[simp] theorem State.setLevelState_dioFailure (s : State) (level : Level) (st : LevelState) : (s.setLevelState level st).dioFailure = s.dioFailure := rfl
@[simp] theorem State.setLevelState_parityFaults (s : State) (level : Level) (st : LevelState) : (s.setLevelState level st).parityFaults = s.parityFaults := rfl
@[simp] theorem State.setLevelState_env (s : State) (level : Level) (st : LevelState) : (s.setLevelState level st).env = s.env := rfl
@[simp] theorem State.setLevelState_free (s : State) (level : Level) (st : LevelState) : (s.setLevelState level st).free = s.free := rfl

@[simp] theorem State.setLevelState_levels (s : State) (level : Level) (st : LevelState) :
    (s.setLevelState level st).levels = s.levels.set level.val { s.level level with state := st } := rfl

/-! ### trigger -/

@[simp] theorem State.trigger_cfg (s : State) (level : Level) : (s.trigger level).cfg = s.cfg := by unfold State.trigger; split <;> rfl
@[simp] theorem State.trigger_p (s : State) (level : Level) : (s.trigger level).p = s.p := by unfold State.trigger; split <;> rfl
@[simp] theorem State.trigger_l (s : State) (level : Level) : (s.trigger level).l = s.l := by unfold State.trigger; split <;> rfl
@[simp] theorem State.trigger_t (s : State) (level : Level) : (s.trigger level).t = s.t := by unfold State.trigger; split <;> rfl
@[simp] theorem State.trigger_x1 (s : State) (level : Level) : (s.trigger level).x1 = s.x1 := by unfold State.trigger; split <;> rfl
@[simp] theorem State.trigger_x2 (s : State) (level : Level) : (s.trigger level).x2 = s.x2 := by unfold State.trigger; split <;> rfl
@[simp] theorem State.trigger_e (s : State) (level : Level) : (s.trigger level).e = s.e := by unfold State.trigger; split <;> rfl
@[simp] theorem State.trigger_a (s : State) (level : Level) : (s.trigger level).a = s.a := by unfold State.trigger; split <;> rfl
@[simp] theorem State.trigger_regH (s : State) (level : Level) : (s.trigger level).regH = s.regH := by unfold State.trigger; split <;> rfl
@[simp] theorem State.trigger_regD (s : State) (level : Level) : (s.trigger level).regD = s.regD := by unfold State.trigger; split <;> rfl
@[simp] theorem State.trigger_regS (s : State) (level : Level) : (s.trigger level).regS = s.regS := by unfold State.trigger; split <;> rfl
@[simp] theorem State.trigger_ch (s : State) (level : Level) : (s.trigger level).ch = s.ch := by unfold State.trigger; split <;> rfl
@[simp] theorem State.trigger_pr (s : State) (level : Level) : (s.trigger level).pr = s.pr := by unfold State.trigger; split <;> rfl
@[simp] theorem State.trigger_pp (s : State) (level : Level) : (s.trigger level).pp = s.pp := by unfold State.trigger; split <;> rfl
@[simp] theorem State.trigger_ii (s : State) (level : Level) : (s.trigger level).ii = s.ii := by unfold State.trigger; split <;> rfl
@[simp] theorem State.trigger_ei (s : State) (level : Level) : (s.trigger level).ei = s.ei := by unfold State.trigger; split <;> rfl
@[simp] theorem State.trigger_o (s : State) (level : Level) : (s.trigger level).o = s.o := by unfold State.trigger; split <;> rfl
@[simp] theorem State.trigger_c (s : State) (level : Level) : (s.trigger level).c = s.c := by unfold State.trigger; split <;> rfl
@[simp] theorem State.trigger_wff (s : State) (level : Level) : (s.trigger level).wff = s.wff := by unfold State.trigger; split <;> rfl
@[simp] theorem State.trigger_exitCondition (s : State) (level : Level) : (s.trigger level).exitCondition = s.exitCondition := by unfold State.trigger; split <;> rfl
@[simp] theorem State.trigger_hold (s : State) (level : Level) : (s.trigger level).hold = s.hold := by unfold State.trigger; split <;> rfl
@[simp] theorem State.trigger_loadCondition (s : State) (level : Level) : (s.trigger level).loadCondition = s.loadCondition := by unfold State.trigger; split <;> rfl
@[simp] theorem State.trigger_parityHalt (s : State) (level : Level) : (s.trigger level).parityHalt = s.parityHalt := by unfold State.trigger; split <;> rfl
@[simp] theorem State.trigger_parityIndicator (s : State) (level : Level) : (s.trigger level).parityIndicator = s.parityIndicator := by unfold State.trigger; split <;> rfl
@[simp] theorem State.trigger_parityAddress (s : State) (level : Level) : (s.trigger level).parityAddress = s.parityAddress := by unfold State.trigger; split <;> rfl
@[simp] theorem State.trigger_mem (s : State) (level : Level) : (s.trigger level).mem = s.mem := by unfold State.trigger; split <;> rfl
@[simp] theorem State.trigger_panel (s : State) (level : Level) : (s.trigger level).panel = s.panel := by unfold State.trigger; split <;> rfl
@[simp] theorem State.trigger_started (s : State) (level : Level) : (s.trigger level).started = s.started := by unfold State.trigger; split <;> rfl
@[simp] theorem State.trigger_supply (s : State) (level : Level) : (s.trigger level).supply = s.supply := by unfold State.trigger; split <;> rfl
@[simp] theorem State.trigger_dormant (s : State) (level : Level) : (s.trigger level).dormant = s.dormant := by unfold State.trigger; split <;> rfl
@[simp] theorem State.trigger_devices (s : State) (level : Level) : (s.trigger level).devices = s.devices := by unfold State.trigger; split <;> rfl
@[simp] theorem State.trigger_dio (s : State) (level : Level) : (s.trigger level).dio = s.dio := by unfold State.trigger; split <;> rfl
@[simp] theorem State.trigger_dioOut (s : State) (level : Level) : (s.trigger level).dioOut = s.dioOut := by unfold State.trigger; split <;> rfl
@[simp] theorem State.trigger_dioReplies (s : State) (level : Level) : (s.trigger level).dioReplies = s.dioReplies := by unfold State.trigger; split <;> rfl
@[simp] theorem State.trigger_wdEnabled (s : State) (level : Level) : (s.trigger level).wdEnabled = s.wdEnabled := by unfold State.trigger; split <;> rfl
@[simp] theorem State.trigger_wdHangup (s : State) (level : Level) : (s.trigger level).wdHangup = s.wdHangup := by unfold State.trigger; split <;> rfl
@[simp] theorem State.trigger_dioFailure (s : State) (level : Level) : (s.trigger level).dioFailure = s.dioFailure := by unfold State.trigger; split <;> rfl
@[simp] theorem State.trigger_parityFaults (s : State) (level : Level) : (s.trigger level).parityFaults = s.parityFaults := by unfold State.trigger; split <;> rfl
@[simp] theorem State.trigger_env (s : State) (level : Level) : (s.trigger level).env = s.env := by unfold State.trigger; split <;> rfl
@[simp] theorem State.trigger_free (s : State) (level : Level) : (s.trigger level).free = s.free := by unfold State.trigger; split <;> rfl

theorem State.trigger_levels (s : State) (level : Level) :
    (s.trigger level).levels =
      if installed s.cfg level && (s.level level).state == .armed
      then s.levels.set level.val { s.level level with state := .waiting } else s.levels := by
  unfold State.trigger; split <;> rfl

/-! ### loadStatus -/

@[simp] theorem State.loadStatus_cfg (s : State) (w : Word) : (s.loadStatus w).cfg = s.cfg := rfl
@[simp] theorem State.loadStatus_p (s : State) (w : Word) : (s.loadStatus w).p = s.p := rfl
@[simp] theorem State.loadStatus_l (s : State) (w : Word) : (s.loadStatus w).l = s.l := rfl
@[simp] theorem State.loadStatus_t (s : State) (w : Word) : (s.loadStatus w).t = s.t := rfl
@[simp] theorem State.loadStatus_x1 (s : State) (w : Word) : (s.loadStatus w).x1 = s.x1 := rfl
@[simp] theorem State.loadStatus_x2 (s : State) (w : Word) : (s.loadStatus w).x2 = s.x2 := rfl
@[simp] theorem State.loadStatus_e (s : State) (w : Word) : (s.loadStatus w).e = s.e := rfl
@[simp] theorem State.loadStatus_a (s : State) (w : Word) : (s.loadStatus w).a = s.a := rfl
@[simp] theorem State.loadStatus_regH (s : State) (w : Word) : (s.loadStatus w).regH = s.regH := rfl
@[simp] theorem State.loadStatus_regD (s : State) (w : Word) : (s.loadStatus w).regD = s.regD := rfl
@[simp] theorem State.loadStatus_regS (s : State) (w : Word) : (s.loadStatus w).regS = s.regS := rfl
@[simp] theorem State.loadStatus_ch (s : State) (w : Word) : (s.loadStatus w).ch = s.ch := rfl
@[simp] theorem State.loadStatus_pr (s : State) (w : Word) : (s.loadStatus w).pr = s.pr := rfl
@[simp] theorem State.loadStatus_wff (s : State) (w : Word) : (s.loadStatus w).wff = s.wff := rfl
@[simp] theorem State.loadStatus_exitCondition (s : State) (w : Word) : (s.loadStatus w).exitCondition = s.exitCondition := rfl
@[simp] theorem State.loadStatus_hold (s : State) (w : Word) : (s.loadStatus w).hold = s.hold := rfl
@[simp] theorem State.loadStatus_loadCondition (s : State) (w : Word) : (s.loadStatus w).loadCondition = s.loadCondition := rfl
@[simp] theorem State.loadStatus_parityHalt (s : State) (w : Word) : (s.loadStatus w).parityHalt = s.parityHalt := rfl
@[simp] theorem State.loadStatus_parityIndicator (s : State) (w : Word) : (s.loadStatus w).parityIndicator = s.parityIndicator := rfl
@[simp] theorem State.loadStatus_parityAddress (s : State) (w : Word) : (s.loadStatus w).parityAddress = s.parityAddress := rfl
@[simp] theorem State.loadStatus_levels (s : State) (w : Word) : (s.loadStatus w).levels = s.levels := rfl
@[simp] theorem State.loadStatus_mem (s : State) (w : Word) : (s.loadStatus w).mem = s.mem := rfl
@[simp] theorem State.loadStatus_panel (s : State) (w : Word) : (s.loadStatus w).panel = s.panel := rfl
@[simp] theorem State.loadStatus_started (s : State) (w : Word) : (s.loadStatus w).started = s.started := rfl
@[simp] theorem State.loadStatus_supply (s : State) (w : Word) : (s.loadStatus w).supply = s.supply := rfl
@[simp] theorem State.loadStatus_dormant (s : State) (w : Word) : (s.loadStatus w).dormant = s.dormant := rfl
@[simp] theorem State.loadStatus_devices (s : State) (w : Word) : (s.loadStatus w).devices = s.devices := rfl
@[simp] theorem State.loadStatus_dio (s : State) (w : Word) : (s.loadStatus w).dio = s.dio := rfl
@[simp] theorem State.loadStatus_dioOut (s : State) (w : Word) : (s.loadStatus w).dioOut = s.dioOut := rfl
@[simp] theorem State.loadStatus_dioReplies (s : State) (w : Word) : (s.loadStatus w).dioReplies = s.dioReplies := rfl
@[simp] theorem State.loadStatus_wdEnabled (s : State) (w : Word) : (s.loadStatus w).wdEnabled = s.wdEnabled := rfl
@[simp] theorem State.loadStatus_wdHangup (s : State) (w : Word) : (s.loadStatus w).wdHangup = s.wdHangup := rfl
@[simp] theorem State.loadStatus_dioFailure (s : State) (w : Word) : (s.loadStatus w).dioFailure = s.dioFailure := rfl
@[simp] theorem State.loadStatus_parityFaults (s : State) (w : Word) : (s.loadStatus w).parityFaults = s.parityFaults := rfl
@[simp] theorem State.loadStatus_env (s : State) (w : Word) : (s.loadStatus w).env = s.env := rfl
@[simp] theorem State.loadStatus_free (s : State) (w : Word) : (s.loadStatus w).free = s.free := rfl

@[simp] theorem State.loadStatus_pp (s : State) (w : Word) : (s.loadStatus w).pp = (s.operative && w.bit 8) := rfl

@[simp] theorem State.loadStatus_ii (s : State) (w : Word) : (s.loadStatus w).ii = w.bit 10 := rfl

@[simp] theorem State.loadStatus_ei (s : State) (w : Word) : (s.loadStatus w).ei = w.bit 11 := rfl

@[simp] theorem State.loadStatus_o (s : State) (w : Word) : (s.loadStatus w).o = w.bit 14 := rfl

@[simp] theorem State.loadStatus_c (s : State) (w : Word) : (s.loadStatus w).c = w.bit 15 := rfl

/-! ### followProgram -/

@[simp] theorem State.followProgram_cfg (s : State) : s.followProgram.cfg = s.cfg := rfl
@[simp] theorem State.followProgram_p (s : State) : s.followProgram.p = s.p := rfl
@[simp] theorem State.followProgram_l (s : State) : s.followProgram.l = s.l := rfl
@[simp] theorem State.followProgram_t (s : State) : s.followProgram.t = s.t := rfl
@[simp] theorem State.followProgram_x1 (s : State) : s.followProgram.x1 = s.x1 := rfl
@[simp] theorem State.followProgram_x2 (s : State) : s.followProgram.x2 = s.x2 := rfl
@[simp] theorem State.followProgram_e (s : State) : s.followProgram.e = s.e := rfl
@[simp] theorem State.followProgram_a (s : State) : s.followProgram.a = s.a := rfl
@[simp] theorem State.followProgram_regH (s : State) : s.followProgram.regH = s.regH := rfl
@[simp] theorem State.followProgram_regD (s : State) : s.followProgram.regD = s.regD := rfl
@[simp] theorem State.followProgram_regS (s : State) : s.followProgram.regS = s.regS := rfl
@[simp] theorem State.followProgram_ch (s : State) : s.followProgram.ch = s.ch := rfl
@[simp] theorem State.followProgram_pr (s : State) : s.followProgram.pr = s.pr := rfl
@[simp] theorem State.followProgram_ii (s : State) : s.followProgram.ii = s.ii := rfl
@[simp] theorem State.followProgram_ei (s : State) : s.followProgram.ei = s.ei := rfl
@[simp] theorem State.followProgram_o (s : State) : s.followProgram.o = s.o := rfl
@[simp] theorem State.followProgram_c (s : State) : s.followProgram.c = s.c := rfl
@[simp] theorem State.followProgram_wff (s : State) : s.followProgram.wff = s.wff := rfl
@[simp] theorem State.followProgram_exitCondition (s : State) : s.followProgram.exitCondition = s.exitCondition := rfl
@[simp] theorem State.followProgram_hold (s : State) : s.followProgram.hold = s.hold := rfl
@[simp] theorem State.followProgram_loadCondition (s : State) : s.followProgram.loadCondition = s.loadCondition := rfl
@[simp] theorem State.followProgram_parityHalt (s : State) : s.followProgram.parityHalt = s.parityHalt := rfl
@[simp] theorem State.followProgram_parityIndicator (s : State) : s.followProgram.parityIndicator = s.parityIndicator := rfl
@[simp] theorem State.followProgram_parityAddress (s : State) : s.followProgram.parityAddress = s.parityAddress := rfl
@[simp] theorem State.followProgram_levels (s : State) : s.followProgram.levels = s.levels := rfl
@[simp] theorem State.followProgram_mem (s : State) : s.followProgram.mem = s.mem := rfl
@[simp] theorem State.followProgram_panel (s : State) : s.followProgram.panel = s.panel := rfl
@[simp] theorem State.followProgram_started (s : State) : s.followProgram.started = s.started := rfl
@[simp] theorem State.followProgram_supply (s : State) : s.followProgram.supply = s.supply := rfl
@[simp] theorem State.followProgram_dormant (s : State) : s.followProgram.dormant = s.dormant := rfl
@[simp] theorem State.followProgram_devices (s : State) : s.followProgram.devices = s.devices := rfl
@[simp] theorem State.followProgram_dio (s : State) : s.followProgram.dio = s.dio := rfl
@[simp] theorem State.followProgram_dioOut (s : State) : s.followProgram.dioOut = s.dioOut := rfl
@[simp] theorem State.followProgram_dioReplies (s : State) : s.followProgram.dioReplies = s.dioReplies := rfl
@[simp] theorem State.followProgram_wdEnabled (s : State) : s.followProgram.wdEnabled = s.wdEnabled := rfl
@[simp] theorem State.followProgram_wdHangup (s : State) : s.followProgram.wdHangup = s.wdHangup := rfl
@[simp] theorem State.followProgram_dioFailure (s : State) : s.followProgram.dioFailure = s.dioFailure := rfl
@[simp] theorem State.followProgram_parityFaults (s : State) : s.followProgram.parityFaults = s.parityFaults := rfl
@[simp] theorem State.followProgram_env (s : State) : s.followProgram.env = s.env := rfl
@[simp] theorem State.followProgram_free (s : State) : s.followProgram.free = s.free := rfl

@[simp] theorem State.followProgram_pp (s : State) : s.followProgram.pp = s.protectedAddress s.regH := rfl

/-! ### refuse -/

@[simp] theorem State.refuse_cfg (s : State) (level : Level) : (s.refuse level).cfg = s.cfg := by unfold State.refuse; simp
@[simp] theorem State.refuse_l (s : State) (level : Level) : (s.refuse level).l = s.l := by unfold State.refuse; simp
@[simp] theorem State.refuse_t (s : State) (level : Level) : (s.refuse level).t = s.t := by unfold State.refuse; simp
@[simp] theorem State.refuse_x1 (s : State) (level : Level) : (s.refuse level).x1 = s.x1 := by unfold State.refuse; simp
@[simp] theorem State.refuse_x2 (s : State) (level : Level) : (s.refuse level).x2 = s.x2 := by unfold State.refuse; simp
@[simp] theorem State.refuse_e (s : State) (level : Level) : (s.refuse level).e = s.e := by unfold State.refuse; simp
@[simp] theorem State.refuse_a (s : State) (level : Level) : (s.refuse level).a = s.a := by unfold State.refuse; simp
@[simp] theorem State.refuse_regH (s : State) (level : Level) : (s.refuse level).regH = s.regH := by unfold State.refuse; simp
@[simp] theorem State.refuse_regD (s : State) (level : Level) : (s.refuse level).regD = s.regD := by unfold State.refuse; simp
@[simp] theorem State.refuse_regS (s : State) (level : Level) : (s.refuse level).regS = s.regS := by unfold State.refuse; simp
@[simp] theorem State.refuse_ch (s : State) (level : Level) : (s.refuse level).ch = s.ch := by unfold State.refuse; simp
@[simp] theorem State.refuse_pr (s : State) (level : Level) : (s.refuse level).pr = s.pr := by unfold State.refuse; simp
@[simp] theorem State.refuse_pp (s : State) (level : Level) : (s.refuse level).pp = s.pp := by unfold State.refuse; simp
@[simp] theorem State.refuse_ii (s : State) (level : Level) : (s.refuse level).ii = s.ii := by unfold State.refuse; simp
@[simp] theorem State.refuse_ei (s : State) (level : Level) : (s.refuse level).ei = s.ei := by unfold State.refuse; simp
@[simp] theorem State.refuse_o (s : State) (level : Level) : (s.refuse level).o = s.o := by unfold State.refuse; simp
@[simp] theorem State.refuse_c (s : State) (level : Level) : (s.refuse level).c = s.c := by unfold State.refuse; simp
@[simp] theorem State.refuse_wff (s : State) (level : Level) : (s.refuse level).wff = s.wff := by unfold State.refuse; simp
@[simp] theorem State.refuse_exitCondition (s : State) (level : Level) : (s.refuse level).exitCondition = s.exitCondition := by unfold State.refuse; simp
@[simp] theorem State.refuse_hold (s : State) (level : Level) : (s.refuse level).hold = s.hold := by unfold State.refuse; simp
@[simp] theorem State.refuse_loadCondition (s : State) (level : Level) : (s.refuse level).loadCondition = s.loadCondition := by unfold State.refuse; simp
@[simp] theorem State.refuse_parityHalt (s : State) (level : Level) : (s.refuse level).parityHalt = s.parityHalt := by unfold State.refuse; simp
@[simp] theorem State.refuse_parityIndicator (s : State) (level : Level) : (s.refuse level).parityIndicator = s.parityIndicator := by unfold State.refuse; simp
@[simp] theorem State.refuse_parityAddress (s : State) (level : Level) : (s.refuse level).parityAddress = s.parityAddress := by unfold State.refuse; simp
@[simp] theorem State.refuse_mem (s : State) (level : Level) : (s.refuse level).mem = s.mem := by unfold State.refuse; simp
@[simp] theorem State.refuse_panel (s : State) (level : Level) : (s.refuse level).panel = s.panel := by unfold State.refuse; simp
@[simp] theorem State.refuse_started (s : State) (level : Level) : (s.refuse level).started = s.started := by unfold State.refuse; simp
@[simp] theorem State.refuse_supply (s : State) (level : Level) : (s.refuse level).supply = s.supply := by unfold State.refuse; simp
@[simp] theorem State.refuse_dormant (s : State) (level : Level) : (s.refuse level).dormant = s.dormant := by unfold State.refuse; simp
@[simp] theorem State.refuse_devices (s : State) (level : Level) : (s.refuse level).devices = s.devices := by unfold State.refuse; simp
@[simp] theorem State.refuse_dio (s : State) (level : Level) : (s.refuse level).dio = s.dio := by unfold State.refuse; simp
@[simp] theorem State.refuse_dioOut (s : State) (level : Level) : (s.refuse level).dioOut = s.dioOut := by unfold State.refuse; simp
@[simp] theorem State.refuse_dioReplies (s : State) (level : Level) : (s.refuse level).dioReplies = s.dioReplies := by unfold State.refuse; simp
@[simp] theorem State.refuse_wdEnabled (s : State) (level : Level) : (s.refuse level).wdEnabled = s.wdEnabled := by unfold State.refuse; simp
@[simp] theorem State.refuse_wdHangup (s : State) (level : Level) : (s.refuse level).wdHangup = s.wdHangup := by unfold State.refuse; simp
@[simp] theorem State.refuse_dioFailure (s : State) (level : Level) : (s.refuse level).dioFailure = s.dioFailure := by unfold State.refuse; simp
@[simp] theorem State.refuse_parityFaults (s : State) (level : Level) : (s.refuse level).parityFaults = s.parityFaults := by unfold State.refuse; simp
@[simp] theorem State.refuse_env (s : State) (level : Level) : (s.refuse level).env = s.env := by unfold State.refuse; simp
@[simp] theorem State.refuse_free (s : State) (level : Level) : (s.refuse level).free = s.free := by unfold State.refuse; simp

@[simp] theorem State.refuse_p (s : State) (level : Level) : (s.refuse level).p = s.regH := by
  unfold State.refuse; simp

theorem State.refuse_levels (s : State) (level : Level) : (s.refuse level).levels = (s.trigger level).levels := by
  simp only [State.refuse, State.trigger_levels]; rfl

/-! ### updateDevice -/

@[simp] theorem State.updateDevice_cfg (s : State) (n : Byte) (f : Device → Device) : (s.updateDevice n f).cfg = s.cfg := rfl
@[simp] theorem State.updateDevice_p (s : State) (n : Byte) (f : Device → Device) : (s.updateDevice n f).p = s.p := rfl
@[simp] theorem State.updateDevice_l (s : State) (n : Byte) (f : Device → Device) : (s.updateDevice n f).l = s.l := rfl
@[simp] theorem State.updateDevice_t (s : State) (n : Byte) (f : Device → Device) : (s.updateDevice n f).t = s.t := rfl
@[simp] theorem State.updateDevice_x1 (s : State) (n : Byte) (f : Device → Device) : (s.updateDevice n f).x1 = s.x1 := rfl
@[simp] theorem State.updateDevice_x2 (s : State) (n : Byte) (f : Device → Device) : (s.updateDevice n f).x2 = s.x2 := rfl
@[simp] theorem State.updateDevice_e (s : State) (n : Byte) (f : Device → Device) : (s.updateDevice n f).e = s.e := rfl
@[simp] theorem State.updateDevice_a (s : State) (n : Byte) (f : Device → Device) : (s.updateDevice n f).a = s.a := rfl
@[simp] theorem State.updateDevice_regH (s : State) (n : Byte) (f : Device → Device) : (s.updateDevice n f).regH = s.regH := rfl
@[simp] theorem State.updateDevice_regD (s : State) (n : Byte) (f : Device → Device) : (s.updateDevice n f).regD = s.regD := rfl
@[simp] theorem State.updateDevice_regS (s : State) (n : Byte) (f : Device → Device) : (s.updateDevice n f).regS = s.regS := rfl
@[simp] theorem State.updateDevice_ch (s : State) (n : Byte) (f : Device → Device) : (s.updateDevice n f).ch = s.ch := rfl
@[simp] theorem State.updateDevice_pr (s : State) (n : Byte) (f : Device → Device) : (s.updateDevice n f).pr = s.pr := rfl
@[simp] theorem State.updateDevice_pp (s : State) (n : Byte) (f : Device → Device) : (s.updateDevice n f).pp = s.pp := rfl
@[simp] theorem State.updateDevice_ii (s : State) (n : Byte) (f : Device → Device) : (s.updateDevice n f).ii = s.ii := rfl
@[simp] theorem State.updateDevice_ei (s : State) (n : Byte) (f : Device → Device) : (s.updateDevice n f).ei = s.ei := rfl
@[simp] theorem State.updateDevice_o (s : State) (n : Byte) (f : Device → Device) : (s.updateDevice n f).o = s.o := rfl
@[simp] theorem State.updateDevice_c (s : State) (n : Byte) (f : Device → Device) : (s.updateDevice n f).c = s.c := rfl
@[simp] theorem State.updateDevice_wff (s : State) (n : Byte) (f : Device → Device) : (s.updateDevice n f).wff = s.wff := rfl
@[simp] theorem State.updateDevice_exitCondition (s : State) (n : Byte) (f : Device → Device) : (s.updateDevice n f).exitCondition = s.exitCondition := rfl
@[simp] theorem State.updateDevice_hold (s : State) (n : Byte) (f : Device → Device) : (s.updateDevice n f).hold = s.hold := rfl
@[simp] theorem State.updateDevice_loadCondition (s : State) (n : Byte) (f : Device → Device) : (s.updateDevice n f).loadCondition = s.loadCondition := rfl
@[simp] theorem State.updateDevice_parityHalt (s : State) (n : Byte) (f : Device → Device) : (s.updateDevice n f).parityHalt = s.parityHalt := rfl
@[simp] theorem State.updateDevice_parityIndicator (s : State) (n : Byte) (f : Device → Device) : (s.updateDevice n f).parityIndicator = s.parityIndicator := rfl
@[simp] theorem State.updateDevice_parityAddress (s : State) (n : Byte) (f : Device → Device) : (s.updateDevice n f).parityAddress = s.parityAddress := rfl
@[simp] theorem State.updateDevice_levels (s : State) (n : Byte) (f : Device → Device) : (s.updateDevice n f).levels = s.levels := rfl
@[simp] theorem State.updateDevice_mem (s : State) (n : Byte) (f : Device → Device) : (s.updateDevice n f).mem = s.mem := rfl
@[simp] theorem State.updateDevice_panel (s : State) (n : Byte) (f : Device → Device) : (s.updateDevice n f).panel = s.panel := rfl
@[simp] theorem State.updateDevice_started (s : State) (n : Byte) (f : Device → Device) : (s.updateDevice n f).started = s.started := rfl
@[simp] theorem State.updateDevice_supply (s : State) (n : Byte) (f : Device → Device) : (s.updateDevice n f).supply = s.supply := rfl
@[simp] theorem State.updateDevice_dormant (s : State) (n : Byte) (f : Device → Device) : (s.updateDevice n f).dormant = s.dormant := rfl
@[simp] theorem State.updateDevice_dio (s : State) (n : Byte) (f : Device → Device) : (s.updateDevice n f).dio = s.dio := rfl
@[simp] theorem State.updateDevice_dioOut (s : State) (n : Byte) (f : Device → Device) : (s.updateDevice n f).dioOut = s.dioOut := rfl
@[simp] theorem State.updateDevice_dioReplies (s : State) (n : Byte) (f : Device → Device) : (s.updateDevice n f).dioReplies = s.dioReplies := rfl
@[simp] theorem State.updateDevice_wdEnabled (s : State) (n : Byte) (f : Device → Device) : (s.updateDevice n f).wdEnabled = s.wdEnabled := rfl
@[simp] theorem State.updateDevice_wdHangup (s : State) (n : Byte) (f : Device → Device) : (s.updateDevice n f).wdHangup = s.wdHangup := rfl
@[simp] theorem State.updateDevice_dioFailure (s : State) (n : Byte) (f : Device → Device) : (s.updateDevice n f).dioFailure = s.dioFailure := rfl
@[simp] theorem State.updateDevice_parityFaults (s : State) (n : Byte) (f : Device → Device) : (s.updateDevice n f).parityFaults = s.parityFaults := rfl
@[simp] theorem State.updateDevice_env (s : State) (n : Byte) (f : Device → Device) : (s.updateDevice n f).env = s.env := rfl
@[simp] theorem State.updateDevice_free (s : State) (n : Byte) (f : Device → Device) : (s.updateDevice n f).free = s.free := rfl

/-! ### setController -/

@[simp] theorem State.setController_cfg (s : State) (n : Byte) (condition : Condition) : (s.setController n condition).cfg = s.cfg := rfl
@[simp] theorem State.setController_p (s : State) (n : Byte) (condition : Condition) : (s.setController n condition).p = s.p := rfl
@[simp] theorem State.setController_l (s : State) (n : Byte) (condition : Condition) : (s.setController n condition).l = s.l := rfl
@[simp] theorem State.setController_t (s : State) (n : Byte) (condition : Condition) : (s.setController n condition).t = s.t := rfl
@[simp] theorem State.setController_x1 (s : State) (n : Byte) (condition : Condition) : (s.setController n condition).x1 = s.x1 := rfl
@[simp] theorem State.setController_x2 (s : State) (n : Byte) (condition : Condition) : (s.setController n condition).x2 = s.x2 := rfl
@[simp] theorem State.setController_e (s : State) (n : Byte) (condition : Condition) : (s.setController n condition).e = s.e := rfl
@[simp] theorem State.setController_a (s : State) (n : Byte) (condition : Condition) : (s.setController n condition).a = s.a := rfl
@[simp] theorem State.setController_regH (s : State) (n : Byte) (condition : Condition) : (s.setController n condition).regH = s.regH := rfl
@[simp] theorem State.setController_regD (s : State) (n : Byte) (condition : Condition) : (s.setController n condition).regD = s.regD := rfl
@[simp] theorem State.setController_regS (s : State) (n : Byte) (condition : Condition) : (s.setController n condition).regS = s.regS := rfl
@[simp] theorem State.setController_ch (s : State) (n : Byte) (condition : Condition) : (s.setController n condition).ch = s.ch := rfl
@[simp] theorem State.setController_pr (s : State) (n : Byte) (condition : Condition) : (s.setController n condition).pr = s.pr := rfl
@[simp] theorem State.setController_pp (s : State) (n : Byte) (condition : Condition) : (s.setController n condition).pp = s.pp := rfl
@[simp] theorem State.setController_ii (s : State) (n : Byte) (condition : Condition) : (s.setController n condition).ii = s.ii := rfl
@[simp] theorem State.setController_ei (s : State) (n : Byte) (condition : Condition) : (s.setController n condition).ei = s.ei := rfl
@[simp] theorem State.setController_o (s : State) (n : Byte) (condition : Condition) : (s.setController n condition).o = s.o := rfl
@[simp] theorem State.setController_c (s : State) (n : Byte) (condition : Condition) : (s.setController n condition).c = s.c := rfl
@[simp] theorem State.setController_wff (s : State) (n : Byte) (condition : Condition) : (s.setController n condition).wff = s.wff := rfl
@[simp] theorem State.setController_exitCondition (s : State) (n : Byte) (condition : Condition) : (s.setController n condition).exitCondition = s.exitCondition := rfl
@[simp] theorem State.setController_hold (s : State) (n : Byte) (condition : Condition) : (s.setController n condition).hold = s.hold := rfl
@[simp] theorem State.setController_loadCondition (s : State) (n : Byte) (condition : Condition) : (s.setController n condition).loadCondition = s.loadCondition := rfl
@[simp] theorem State.setController_parityHalt (s : State) (n : Byte) (condition : Condition) : (s.setController n condition).parityHalt = s.parityHalt := rfl
@[simp] theorem State.setController_parityIndicator (s : State) (n : Byte) (condition : Condition) : (s.setController n condition).parityIndicator = s.parityIndicator := rfl
@[simp] theorem State.setController_parityAddress (s : State) (n : Byte) (condition : Condition) : (s.setController n condition).parityAddress = s.parityAddress := rfl
@[simp] theorem State.setController_levels (s : State) (n : Byte) (condition : Condition) : (s.setController n condition).levels = s.levels := rfl
@[simp] theorem State.setController_mem (s : State) (n : Byte) (condition : Condition) : (s.setController n condition).mem = s.mem := rfl
@[simp] theorem State.setController_panel (s : State) (n : Byte) (condition : Condition) : (s.setController n condition).panel = s.panel := rfl
@[simp] theorem State.setController_started (s : State) (n : Byte) (condition : Condition) : (s.setController n condition).started = s.started := rfl
@[simp] theorem State.setController_supply (s : State) (n : Byte) (condition : Condition) : (s.setController n condition).supply = s.supply := rfl
@[simp] theorem State.setController_dormant (s : State) (n : Byte) (condition : Condition) : (s.setController n condition).dormant = s.dormant := rfl
@[simp] theorem State.setController_dio (s : State) (n : Byte) (condition : Condition) : (s.setController n condition).dio = s.dio := rfl
@[simp] theorem State.setController_dioOut (s : State) (n : Byte) (condition : Condition) : (s.setController n condition).dioOut = s.dioOut := rfl
@[simp] theorem State.setController_dioReplies (s : State) (n : Byte) (condition : Condition) : (s.setController n condition).dioReplies = s.dioReplies := rfl
@[simp] theorem State.setController_wdEnabled (s : State) (n : Byte) (condition : Condition) : (s.setController n condition).wdEnabled = s.wdEnabled := rfl
@[simp] theorem State.setController_wdHangup (s : State) (n : Byte) (condition : Condition) : (s.setController n condition).wdHangup = s.wdHangup := rfl
@[simp] theorem State.setController_dioFailure (s : State) (n : Byte) (condition : Condition) : (s.setController n condition).dioFailure = s.dioFailure := rfl
@[simp] theorem State.setController_parityFaults (s : State) (n : Byte) (condition : Condition) : (s.setController n condition).parityFaults = s.parityFaults := rfl
@[simp] theorem State.setController_env (s : State) (n : Byte) (condition : Condition) : (s.setController n condition).env = s.env := rfl
@[simp] theorem State.setController_free (s : State) (n : Byte) (condition : Condition) : (s.setController n condition).free = s.free := rfl

end Sys2Proof.Machine
end

