-- ==== Sys2Proof/Laws/Arithmetic.lean ====
section
/-! SUPPORT. The shared arithmetic: what each operation of Machine/Flags.lean computes, in the integers. -/

namespace Sys2Proof.Machine

open Sys2Proof

/-- Bit 0 of a word is its sign. -/
theorem Word.bit_zero (w : Word) : Word.bit w 0 = decide (2 ^ 15 ≤ w.toNat) := by
  have h : Word.bit w 0 = w.msb := rfl
  rw [h, BitVec.msb_eq_decide]

/-- The overflow of a sum is true signed overflow. -/
theorem addWords_o (a w : Word) (inc : Bool) : (addWords a w inc).o =
    decide (a.toInt + w.toInt + inc.toNat < -0x8000 ∨ 0x7FFF < a.toInt + w.toInt + inc.toNat) := by
  have ha := a.isLt
  have hw := w.isLt
  have hr : (BitVec.ofNat 16 (a.toNat + w.toNat + inc.toNat)).toNat = (a.toNat + w.toNat + inc.toNat) % 65536 := by
    simp
  have hi : inc.toNat = 0 ∨ inc.toNat = 1 := by cases inc <;> simp
  rw [Bool.eq_iff_iff]
  simp only [addWords, Word.bit_zero, hr, decide_eq_true_eq, Bool.and_eq_true, beq_iff_eq, bne_iff_ne, ne_eq,
    decide_eq_decide, BitVec.toInt_eq_toNat_cond]
  generalize a.toNat = x at *
  generalize w.toNat = y at *
  generalize inc.toNat = z at *
  split <;> split <;> omega

/-- A sum with its indicators, in full. -/
theorem addWords_eq (a w : Word) (inc : Bool) : addWords a w inc =
    { value := BitVec.ofNat 16 (a.toNat + w.toNat + inc.toNat)
      o := decide (a.toInt + w.toInt + inc.toNat < -0x8000 ∨ 0x7FFF < a.toInt + w.toInt + inc.toNat)
      c := decide (0x10000 ≤ a.toNat + w.toNat + inc.toNat) } := by
  rw [← addWords_o]
  rfl

/-- A difference with its indicators, in full. -/
theorem subtractWords_eq (a w : Word) : subtractWords a w =
    { value := a - w
      o := decide (a.toInt - w.toInt < -0x8000 ∨ 0x7FFF < a.toInt - w.toInt)
      c := decide (w.toNat ≤ a.toNat) } := by
  have hx := a.isLt
  have hw := w.isLt
  have hn : (~~~w).toNat = 65535 - w.toNat := by simp [BitVec.toNat_not]
  have hr : (BitVec.ofNat 16 (a.toNat + (~~~w).toNat + 1)).toNat = (a.toNat + (65535 - w.toNat) + 1) % 65536 := by
    simp [hn]
  have hv : (subtractWords a w).value = a - w := by
    apply BitVec.eq_of_toNat_eq
    simp only [subtractWords, hr, BitVec.toNat_sub]
    omega
  have hc : (subtractWords a w).c = decide (w.toNat ≤ a.toNat) := by
    simp only [subtractWords, hn, decide_eq_decide]
    omega
  have ho : (subtractWords a w).o = decide (a.toInt - w.toInt < -0x8000 ∨ 0x7FFF < a.toInt - w.toInt) := by
    rw [Bool.eq_iff_iff]
    simp only [subtractWords, Word.bit_zero, hr, decide_eq_true_eq, Bool.and_eq_true, beq_iff_eq, bne_iff_ne, ne_eq,
      decide_eq_decide, BitVec.toInt_eq_toNat_cond]
    generalize a.toNat = x at *
    generalize w.toNat = y at *
    split <;> split <;> omega
  rw [← hv, ← hc, ← ho]

/-- The product does not lose anything. -/
theorem multiplyWords_toInt (a w : Word) : (multiplyWords a w).toInt = a.toInt * w.toInt := by
  have b1 := a.toInt_lt
  have b2 := a.le_toInt
  have b3 := w.toInt_lt
  have b4 := w.le_toInt
  simp only [multiplyWords, BitVec.toInt_ofInt]
  have : a.toInt * w.toInt ≤ 2 ^ 30 ∧ -2 ^ 30 ≤ a.toInt * w.toInt := by
    generalize a.toInt = x at *
    generalize w.toInt = y at *
    norm_num at b1 b2 b3 b4
    constructor <;> nlinarith
  rw [Int.bmod_eq_of_le] <;> omega

/-- The comparison code, in full. -/
theorem compareWords_eq (a w : Word) :
    compareWords a w = (decide (w.toInt ≤ a.toInt), decide (w.toInt = a.toInt)) := by
  simp only [compareWords]
  split_ifs <;> simp <;> omega

/-- The two halves of a doubleword make it up. -/
theorem halves (v : BitVec 32) : (BitVec.extractLsb' 16 16 v ++ BitVec.extractLsb' 0 16 v : BitVec 32) = v := by
  ext i hi
  simp only [BitVec.getElem_append, BitVec.getElem_extractLsb']
  split
  · rw [← BitVec.getLsbD_eq_getElem]; simp
  · rw [← BitVec.getLsbD_eq_getElem]; congr 1; omega

/-- A division by a nonzero word, by its truncated quotient and its remainder. -/
theorem divideWords_of_eq (dividend : BitVec 32) (w : Word) (n q r : Int) (hn : n = dividend.toInt)
    (hq : n = q * w.toInt + r) (hr : r.natAbs < w.toInt.natAbs) (hs : r = 0 ∨ (r < 0 ↔ n < 0)) :
    divideWords dividend w =
      if 0x8000 ≤ q.natAbs then .overflow else .result (BitVec.ofInt 16 q) (BitVec.ofInt 16 r) := by
  have hd : w.toInt ≠ 0 := by intro h; rw [h] at hr; simp at hr
  have huniq : n.tdiv w.toInt = q ∧ n.tmod w.toInt = r := by
    generalize w.toInt = d at *
    have h0 := Int.tmod_add_mul_tdiv n d
    have key : ∀ n q r : Int, 0 ≤ n → n = q * d + r → r.natAbs < d.natAbs → (r = 0 ∨ (r < 0 ↔ n < 0)) →
        n.tdiv d = q ∧ n.tmod d = r := by
      intro n q r h0 h1 h2 h3
      rw [Int.tdiv_tmod_unique h0 hd]
      have : 0 ≤ r := by omega
      refine ⟨by rw [h1]; ring, this, by omega⟩
    rcases le_or_gt 0 n with h | h
    · exact key n q r h hq hr hs
    · have := key (-n) (-q) (-r) (by omega) (by rw [hq]; ring) (by simpa using hr) (by omega)
      rw [Int.neg_tdiv, Int.neg_tmod] at this
      omega
  unfold divideWords
  simp only [← hn]
  rw [if_neg hd, huniq.1, huniq.2]

/-- A division by zero is the overflow case. -/
theorem divideWords_zero (dividend : BitVec 32) (w : Word) (h : w.toInt = 0) : divideWords dividend w = .overflow := by
  unfold divideWords
  simp only
  rw [if_pos h]

/-- An arithmetic right shift, in one step. -/
theorem shiftBy_arithmeticRight (n : Nat) (k : Nat) (v : BitVec n) (o c : Bool) :
    shiftBy .arithmeticRight k ⟨v, o, c⟩ = ⟨v.sshiftRight k, o, c⟩ := by
  induction k generalizing v with
  | zero => simp [shiftBy]
  | succ k ih =>
    rw [shiftBy, shiftOnce, ih, ← BitVec.sshiftRight_add, Nat.add_comm]

/-- A bit after a rotation to the right. -/
theorem getLsbD_rotateRight_mod {w : Nat} (x : BitVec w) (r i : Nat) :
    (x.rotateRight r).getLsbD i = (decide (i < w) && x.getLsbD ((r + i) % w)) := by
  rw [BitVec.getLsbD_rotateRight]
  by_cases hw : w = 0
  · subst hw; simp
  have hlt := Nat.mod_lt r (Nat.pos_of_ne_zero hw)
  by_cases h : i < w
  · have e : (r + i) % w = if r % w + i < w then r % w + i else r % w + i - w := by
      rw [Nat.add_mod, Nat.mod_eq_of_lt h]
      split
      · exact Nat.mod_eq_of_lt (by assumption)
      · rw [Nat.mod_eq_sub_mod (by omega), Nat.mod_eq_of_lt (by omega)]
    rw [e]
    generalize r % w = q at *
    by_cases h1 : i < w - q
    · have : q + i < w := by omega
      simp [h1, h, this]
    · have : ¬ q + i < w := by omega
      simp only [h1, h, this, decide_false, cond_false, decide_true, Bool.true_and, if_false]
      congr 1
      omega
  · have : ¬ i < w - r % w := by generalize r % w = q at *; omega
    simp [h, this]

/-- A rotation to the right by one more. -/
theorem rotateRight_succ {n : Nat} (v : BitVec n) (k : Nat) :
    (v.rotateRight 1).rotateRight k = v.rotateRight (k + 1) := by
  apply BitVec.eq_of_getLsbD_eq
  intro i hi
  have : (k + i) % n < n := Nat.mod_lt _ (by omega)
  simp only [getLsbD_rotateRight_mod, hi, decide_true, Bool.true_and, this]
  congr 1
  rw [Nat.add_mod_mod]; congr 1; omega

/-- A rotation to the left by one more. -/
theorem rotateLeft_succ {n : Nat} (v : BitVec n) (k : Nat) :
    (v.rotateLeft 1).rotateLeft k = v.rotateLeft (k + 1) := by
  apply BitVec.eq_of_getMsbD_eq
  intro i hi
  have : (k + i) % n < n := Nat.mod_lt _ (by omega)
  simp only [BitVec.getMsbD_rotateLeft, hi, decide_true, Bool.true_and, this]
  congr 1
  rw [Nat.add_mod_mod]; congr 1; omega

/-- A circular right shift, in one step. -/
theorem shiftBy_circularRight (n : Nat) (k : Nat) (v : BitVec n) (o c : Bool) :
    shiftBy .circularRight k ⟨v, o, c⟩ = ⟨v.rotateRight k, o, c⟩ := by
  induction k generalizing v with
  | zero =>
    simp only [shiftBy]
    congr 1
    apply BitVec.eq_of_getLsbD_eq
    intro i hi
    rw [getLsbD_rotateRight_mod, Nat.zero_add, Nat.mod_eq_of_lt hi]
    simp [hi]
  | succ k ih => rw [shiftBy, shiftOnce, ih, rotateRight_succ]

/-- A circular left shift, in one step: C is inverted once for every one that leaves the sign position. -/
theorem shiftBy_circularLeft (n : Nat) (k : Nat) (v : BitVec n) (o c : Bool) :
    shiftBy .circularLeft k ⟨v, o, c⟩ =
      ⟨v.rotateLeft k, o, c ^^ decide (((List.range k).countP fun j => (v.rotateLeft j).msb) % 2 = 1)⟩ := by
  induction k generalizing v c with
  | zero =>
    simp only [shiftBy]
    have : v.rotateLeft 0 = v := by
      apply BitVec.eq_of_getMsbD_eq
      intro i hi
      simp [BitVec.getMsbD_rotateLeft, hi, Nat.mod_eq_of_lt hi]
    simp [this]
  | succ k ih =>
    have h0 : v.rotateLeft 0 = v := by
      apply BitVec.eq_of_getMsbD_eq
      intro i hi
      simp [BitVec.getMsbD_rotateLeft, hi, Nat.mod_eq_of_lt hi]
    rw [shiftBy, shiftOnce, ih, rotateLeft_succ, List.range_succ_eq_map, List.countP_cons, List.countP_map]
    have : ((fun j => (v.rotateLeft j).msb) ∘ Nat.succ) = fun j => ((v.rotateLeft 1).rotateLeft j).msb := by
      funext j; simp [rotateLeft_succ]
    rw [this, h0]
    congr 1
    cases v.msb
    · simp
    · simp only [if_true]
      have : ∀ x : Nat, (decide ((x + 1) % 2 = 1)) = !decide (x % 2 = 1) := by
        intro x; rcases Nat.mod_two_eq_zero_or_one x with h | h <;> simp [Nat.add_mod, h]
      rw [this]
      cases c <;> simp

/-- An arithmetic left shift, in one step, after `m` positions of it. -/
theorem shiftBy_arithmeticLeft (n : Nat) (k : Nat) (v u : BitVec n) (o c : Bool) (m : Nat) (h : v = u <<< m)
    (ho : o = (List.range (m + 1)).any fun j => (u <<< j).msb != u.msb) :
    shiftBy .arithmeticLeft k ⟨v, o, c⟩ =
      ⟨u <<< (m + k), (List.range (m + k + 1)).any fun j => (u <<< j).msb != u.msb,
        c ^^ decide (((List.range k).countP fun j => (v <<< j).msb) % 2 = 1)⟩ := by
  induction k generalizing v c o m with
  | zero => simp [shiftBy, h, ho]
  | succ k ih =>
    have hs : v <<< 1 = u <<< (m + 1) := by rw [h, ← BitVec.shiftLeft_add]
    rw [shiftBy, shiftOnce]
    simp only
    rw [ih (v <<< 1) _ _ (m + 1) hs]
    · congr 1
      · rw [Nat.add_right_comm, Nat.add_assoc]
      · congr 2; omega
      · rw [List.range_succ_eq_map, List.countP_cons, List.countP_map]
        have : ((fun j => (v <<< j).msb) ∘ Nat.succ) = fun j => ((v <<< 1) <<< j).msb := by
          funext j; simp only [Function.comp]; rw [← BitVec.shiftLeft_add, Nat.add_comm]
        rw [this, BitVec.shiftLeft_zero]
        cases v.msb
        · simp
        · simp only [if_true]
          have : ∀ x : Nat, (decide ((x + 1) % 2 = 1)) = !decide (x % 2 = 1) := by
            intro x; rcases Nat.mod_two_eq_zero_or_one x with h | h <;> simp [Nat.add_mod, h]
          rw [this]
          cases c <;> simp
    · rw [List.range_succ (n := m + 1), List.any_append, ← ho, hs]
      simp only [List.any_cons, List.any_nil, Bool.or_false]
      rw [h]
      have hm : (u <<< m).msb = u.msb ∨ o = true := by
        by_cases hh : (u <<< m).msb = u.msb
        · exact .inl hh
        · right; rw [ho]; simp only [List.any_eq_true, List.mem_range]; exact ⟨m, by omega, by simpa using hh⟩
      rcases hm with hm | hm
      · rw [hm]
      · simp [hm]

/-- The count of a shift specification is its five low bits. -/
theorem shiftCount_eq (ea : Word) : shiftCount ea = ea.toNat % 32 := by
  simp [shiftCount, Word.field]

end Sys2Proof.Machine
end

