-- ==== Sys2Proof/Laws/Memory.lean ====
section
/-! SUPPORT. Memory: what a byte reads as after a store, the canonical form, and that a canonical memory is determined
by its bytes; the same for words. -/

namespace Sys2Proof.Machine

open Sys2Proof

/-- Strictly rising addresses and no zero byte: the canonical form without its bound. -/
def Memory.Canonical (m : Memory) : Prop :=
  m.Pairwise (fun x y => x.1 < y.1) ∧ ∀ cell ∈ m, cell.2 ≠ 0

theorem Memory.wf_iff (m : Memory) :
    m.wf = true ↔ m.Canonical ∧ ∀ cell ∈ m, cell.1 < 0x20000 := by
  simp only [Memory.wf, Memory.Canonical, Bool.and_eq_true, decide_eq_true_eq, List.all_eq_true, bne_iff_ne, ne_eq]
  constructor
  · rintro ⟨h, k⟩
    exact ⟨⟨h, fun c hc => (k c hc).1⟩, fun c hc => (k c hc).2⟩
  · rintro ⟨⟨h, k⟩, l⟩
    exact ⟨h, fun c hc => ⟨k c hc, l c hc⟩⟩

/-- An address below every listed one reads as zero. -/
theorem Memory.byteAt_lt_all (m : Memory) (n : Nat) (h : ∀ cell ∈ m, n < cell.1) : m.byteAt n = 0 := by
  induction m with
  | nil => rfl
  | cons cell rest ih =>
    obtain ⟨k, v⟩ := cell
    have hk : n < k := h (k, v) (by simp)
    simp only [Memory.byteAt]
    rw [if_neg (by omega)]
    exact ih fun c hc => h c (by simp [hc])

/-- The bytes after a store: the stored byte at its address, every other byte as before. -/
theorem Memory.byteAt_setByte (m : Memory) (n k : Nat) (v : Byte) (h : m.Canonical) :
    (m.setByte n v).byteAt k = if k = n then v else m.byteAt k := by
  induction m with
  | nil =>
    simp only [Memory.setByte]
    split <;> rename_i hv <;> simp [Memory.byteAt, hv]
  | cons cell rest ih =>
    obtain ⟨a, w⟩ := cell
    obtain ⟨hp, hz⟩ := h
    rw [List.pairwise_cons] at hp
    have hrest : Memory.Canonical rest := ⟨hp.2, fun c hc => hz c (by simp [hc])⟩
    simp only [Memory.setByte]
    by_cases hlt : n < a
    · rw [if_pos hlt]
      by_cases hv : v = 0
      · rw [if_pos hv]
        by_cases hk : k = n
        · subst hk
          rw [if_pos rfl, hv]
          apply Memory.byteAt_lt_all
          intro c hc
          rcases List.mem_cons.1 hc with rfl | hc
          · exact hlt
          · exact Nat.lt_trans hlt (hp.1 c hc)
        · rw [if_neg hk]
      · rw [if_neg hv]; simp only [Memory.byteAt]
    · rw [if_neg hlt]
      by_cases heq : n = a
      · rw [if_pos heq]
        subst heq
        by_cases hv : v = 0
        · rw [if_pos hv]
          by_cases hk : k = n
          · subst hk
            rw [if_pos rfl, hv]
            exact Memory.byteAt_lt_all rest k fun c hc => hp.1 c hc
          · simp only [Memory.byteAt, if_neg hk]
        · rw [if_neg hv]
          by_cases hk : k = n <;> simp [Memory.byteAt, hk]
      · rw [if_neg heq]
        simp only [Memory.byteAt]
        by_cases hka : k = a
        · subst hka
          rw [if_pos rfl, if_neg (Ne.symm heq), if_pos rfl]
        · rw [if_neg hka, if_neg hka, ih hrest]

/-- A store leaves every other byte as it was, whatever the form of the memory. -/
theorem Memory.byteAt_setByte_ne (m : Memory) (n k : Nat) (v : Byte) (h : k ≠ n) :
    (m.setByte n v).byteAt k = m.byteAt k := by
  induction m with
  | nil => simp only [Memory.setByte]; split <;> simp [Memory.byteAt, h]
  | cons cell rest ih =>
    obtain ⟨a, w⟩ := cell
    simp only [Memory.setByte]
    split_ifs with h1 h2 h3 h4
    · rfl
    · simp [Memory.byteAt, h]
    · simp [Memory.byteAt, h3 ▸ h]
    · subst h3; simp [Memory.byteAt, h]
    · simp only [Memory.byteAt, ih]

/-- What a store can list: the stored byte, if it is not zero, and what was listed. -/
theorem Memory.mem_setByte (m : Memory) (n : Nat) (v : Byte) (cell : Host.Cell) (h : cell ∈ m.setByte n v) :
    (cell = (n, v) ∧ v ≠ 0) ∨ cell ∈ m := by
  induction m with
  | nil =>
    simp only [Memory.setByte] at h
    split at h <;> simp_all
  | cons c rest ih =>
    obtain ⟨a, w⟩ := c
    simp only [Memory.setByte] at h
    split_ifs at h with h1 h2 h3 h4
    · exact .inr h
    · rcases List.mem_cons.1 h with h | h
      · exact .inl ⟨h, h2⟩
      · exact .inr h
    · exact .inr (List.mem_cons_of_mem _ h)
    · subst h3
      rcases List.mem_cons.1 h with h | h
      · exact .inl ⟨h, h4⟩
      · exact .inr (List.mem_cons_of_mem _ h)
    · rcases List.mem_cons.1 h with h | h
      · exact .inr (h ▸ List.mem_cons_self)
      · exact (ih h).imp_right (List.mem_cons_of_mem _)

/-- A store keeps the canonical form. -/
theorem Memory.setByte_canonical (m : Memory) (n : Nat) (v : Byte) (h : m.Canonical) : (m.setByte n v).Canonical := by
  refine ⟨?_, fun cell hc => ?_⟩
  · induction m with
    | nil => simp only [Memory.setByte]; split <;> simp
    | cons c rest ih =>
      obtain ⟨a, w⟩ := c
      obtain ⟨hp, hz⟩ := h
      have hp' := List.pairwise_cons.1 hp
      simp only [Memory.setByte]
      split_ifs with h1 h2 h3 h4
      · exact hp
      · refine List.pairwise_cons.2 ⟨fun c hc => ?_, hp⟩
        rcases List.mem_cons.1 hc with rfl | hc
        · exact h1
        · exact Nat.lt_trans h1 (hp'.1 c hc)
      · exact hp'.2
      · exact List.pairwise_cons.2 ⟨hp'.1, hp'.2⟩
      · refine List.pairwise_cons.2 ⟨fun c hc => ?_, ih ⟨hp'.2, fun c hc => hz c (by simp [hc])⟩⟩
        rcases Memory.mem_setByte rest n v c hc with ⟨rfl, _⟩ | hc
        · show a < n
          omega
        · exact hp'.1 c hc
  · rcases Memory.mem_setByte m n v cell hc with ⟨rfl, hv⟩ | hc
    · exact hv
    · exact h.2 cell hc

/-- A store at a byte address that exists keeps the canonical form with its bound. -/
theorem Memory.setByte_wf (m : Memory) (n : Nat) (v : Byte) (h : m.wf = true) (hn : n < 0x20000) :
    (m.setByte n v).wf = true := by
  rw [Memory.wf_iff] at h ⊢
  refine ⟨Memory.setByte_canonical m n v h.1, fun cell hc => ?_⟩
  rcases Memory.mem_setByte m n v cell hc with ⟨rfl, _⟩ | hc
  · exact hn
  · exact h.2 cell hc

/-- Two canonical memories with the same bytes are equal. -/
theorem Memory.ext_byteAt (m k : Memory) (hm : m.Canonical) (hk : k.Canonical)
    (h : ∀ n, m.byteAt n = k.byteAt n) : m = k := by
  have listed : ∀ (m : Memory), m.Canonical → ∀ a v, (a, v) ∈ m ↔ m.byteAt a = v ∧ v ≠ 0 := by
    intro m hm
    induction m with
    | nil => intro a v; simpa [Memory.byteAt] using fun h => h.symm
    | cons c rest ih =>
      obtain ⟨b, w⟩ := c
      obtain ⟨hp, hz⟩ := hm
      rw [List.pairwise_cons] at hp
      have hw : w ≠ 0 := hz (b, w) (by simp)
      intro a v
      have ihr := ih ⟨hp.2, fun c hc => hz c (by simp [hc])⟩ a v
      by_cases ha : a = b
      · subst ha
        have hnot : ∀ v, (a, v) ∉ rest := fun v hv => absurd (hp.1 _ hv) (by simp)
        simp only [List.mem_cons, Memory.byteAt, Prod.mk.injEq, true_and, if_true]
        constructor
        · rintro (rfl | hv)
          · exact ⟨rfl, hw⟩
          · exact absurd hv (hnot v)
        · rintro ⟨rfl, _⟩; exact .inl rfl
      · simp only [List.mem_cons, Memory.byteAt, Prod.mk.injEq, ha, false_and, false_or, if_false]
        exact ihr
  refine List.Perm.eq_of_pairwise' (r := fun x y : Host.Cell => x.1 < y.1) hm.1 hk.1 ?_
  refine (List.perm_ext_iff_of_nodup ?_ ?_).2 ?_
  · exact hm.1.imp fun {x y} hxy e => by simp [e] at hxy
  · exact hk.1.imp fun {x y} hxy e => by simp [e] at hxy
  · rintro ⟨a, v⟩
    rw [listed m hm, listed k hk, h]

/-! ### Words -/

theorem memWords_le (cfg : Config) : memWords cfg ≤ 0x10000 := by
  have := cfg.memBanks.isLt
  simp only [memWords]; omega

theorem Word.hi_ofBytes (x y : Byte) : Word.hi (Word.ofBytes x y) = x := by
  simp only [Word.hi, Word.ofBytes]
  exact BitVec.extractLsb'_append_eq_left

theorem Word.lo_ofBytes (x y : Byte) : Word.lo (Word.ofBytes x y) = y := by
  simp only [Word.lo, Word.ofBytes]
  exact BitVec.extractLsb'_append_eq_right

theorem Word.ofBytes_hi_lo (w : Word) : Word.ofBytes (Word.hi w) (Word.lo w) = w := by
  simp only [Word.hi, Word.lo, Word.ofBytes]
  ext i hi
  simp only [BitVec.getElem_append, BitVec.getElem_extractLsb']
  by_cases h : i < 8
  · simp only [h, dite_true, Nat.zero_add]
    exact BitVec.getLsbD_eq_getElem hi
  · simp only [h, dite_false]
    rw [← BitVec.getLsbD_eq_getElem]
    congr 1; omega

/-- Reading after a store: the stored word at its address if the location exists, every other word as before
(20_memory.md R63). -/
theorem State.readWord_writeWord (s : State) (addr b v : Word) (h : s.mem.Canonical) :
    (s.writeWord addr v).readWord b = if b = addr ∧ s.hasLocation addr then v else s.readWord b := by
  have hh : (s.writeWord addr v).hasLocation b = s.hasLocation b := rfl
  simp only [State.readWord, hh, State.writeWord_mem]
  by_cases hb : s.hasLocation b
  · by_cases ha : s.hasLocation addr
    · simp only [hb, ha, if_true, and_true]
      have hc := Memory.setByte_canonical s.mem (2 * addr.toNat) (Word.hi v) h
      simp only [Memory.byteAt_setByte _ _ _ _ hc, Memory.byteAt_setByte _ _ _ _ h]
      by_cases e : b = addr
      · subst e
        simp only [if_true]
        rw [if_neg (by omega)]
        exact Word.ofBytes_hi_lo v
      · have ne : b.toNat ≠ addr.toNat := fun h => e (BitVec.eq_of_toNat_eq h)
        rw [if_neg (by omega), if_neg (by omega), if_neg (by omega), if_neg (by omega), if_neg e]
    · simp [ha]
  · simp only [hb]
    by_cases e : b = addr
    · subst e; simp [hb]
    · simp [e]

/-- Reading after a partial write: the stored half of its word, every other word as before (20_memory.md R68). -/
theorem State.readWord_writeHalf (s : State) (addr other : Word) (right : Bool) (b : Byte) (hc : s.mem.Canonical)
    (h : s.hasLocation addr = true) :
    (s.writeHalf addr right b).readWord other =
      if other = addr then
        (if right then Word.ofBytes (s.readWord addr).hi b else Word.ofBytes b (s.readWord addr).lo)
      else s.readWord other := by
  have hh : (s.writeHalf addr right b).hasLocation other = s.hasLocation other := rfl
  unfold State.readWord
  rw [hh, State.writeHalf_mem]
  simp only [h, if_true]
  by_cases e : other = addr
  · subst e
    simp only [h, if_true]
    rw [Memory.byteAt_setByte _ _ _ _ hc, Memory.byteAt_setByte _ _ _ _ hc]
    cases right <;> simp [Word.hi_ofBytes, Word.lo_ofBytes]
  · have ne : other.toNat ≠ addr.toNat := fun h => e (BitVec.eq_of_toNat_eq h)
    rw [if_neg e]
    split
    · rw [Memory.byteAt_setByte _ _ _ _ hc, Memory.byteAt_setByte _ _ _ _ hc, if_neg, if_neg] <;>
        cases right <;> simp <;> omega
    · rfl

/-- A word store keeps the canonical form. -/
theorem State.writeWord_wf (s : State) (addr v : Word) (h : s.mem.wf = true) : (s.writeWord addr v).mem.wf = true := by
  have := addr.isLt
  rw [State.writeWord_mem]
  split
  · exact Memory.setByte_wf _ _ _ (Memory.setByte_wf _ _ _ h (by omega)) (by omega)
  · exact h

/-- A partial write keeps the canonical form. -/
theorem State.writeHalf_wf (s : State) (addr : Word) (right : Bool) (v : Byte) (h : s.mem.wf = true) :
    (s.writeHalf addr right v).mem.wf = true := by
  have := addr.isLt
  rw [State.writeHalf_mem]
  split
  · exact Memory.setByte_wf _ _ _ h (by cases right <;> simp <;> omega)
  · exact h

/-- A word store lists nothing beyond `MemWords`. -/
theorem State.writeWord_exists (s : State) (addr v : Word) (h : ∀ cell ∈ s.mem, cell.1 < 2 * memWords s.cfg) :
    ∀ cell ∈ (s.writeWord addr v).mem, cell.1 < 2 * memWords (s.writeWord addr v).cfg := by
  intro cell hc
  rw [State.writeWord_mem] at hc
  rw [State.writeWord_cfg]
  split at hc
  · rename_i hl
    have hl' : addr.toNat < memWords s.cfg := by simpa [State.hasLocation] using hl
    rcases Memory.mem_setByte _ _ _ _ hc with ⟨rfl, _⟩ | hc
    · simp only; omega
    · rcases Memory.mem_setByte _ _ _ _ hc with ⟨rfl, _⟩ | hc
      · simp only; omega
      · exact h cell hc
  · exact h cell hc

/-- A partial write lists nothing beyond `MemWords`. -/
theorem State.writeHalf_exists (s : State) (addr : Word) (right : Bool) (v : Byte)
    (h : ∀ cell ∈ s.mem, cell.1 < 2 * memWords s.cfg) :
    ∀ cell ∈ (s.writeHalf addr right v).mem, cell.1 < 2 * memWords (s.writeHalf addr right v).cfg := by
  intro cell hc
  rw [State.writeHalf_mem] at hc
  rw [State.writeHalf_cfg]
  split at hc
  · rename_i hl
    have hl' : addr.toNat < memWords s.cfg := by simpa [State.hasLocation] using hl
    rcases Memory.mem_setByte _ _ _ _ hc with ⟨rfl, _⟩ | hc
    · cases right <;> simp only [Bool.toNat_false, Bool.toNat_true] <;> omega
    · exact h cell hc
  · exact h cell hc

/-- The memory after reset is canonical. -/
theorem State.reset_mem_wf : State.reset.mem.wf = true := rfl

end Sys2Proof.Machine
end

