-- ==== Sys2Proof/Laws/Operations.lean ====
section
/-! SUPPORT. One lemma for each shared operation that says once everything it can do. -/

namespace Sys2Proof.Machine

open Sys2Proof

/-! ### The frame of an instruction -/

/-- An instruction in its frame goes on in one of four ways: refused by rule 2, refused by the rule it is checked for,
aborted by a parity error, or done. -/
theorem State.perform_next {s t : State} {check : Check} {effect : State → Effect}
    (h : s.perform check effect = .next t) :
    (s.refusesEntry = true ∧ t = s.refuse protectionLevel) ∨
    (s.refusesEntry = false ∧ s.followProgram.refusesCheck check = true ∧
      t = s.followProgram.refuse protectionLevel) ∨
    (s.admits check = true ∧ ∃ addr, effect s.followProgram = .parity addr ∧ t = s.parityAbort addr) ∨
    (s.admits check = true ∧ effect s.followProgram = .done t) := by
  unfold State.perform at h
  unfold State.admits
  by_cases h1 : s.refusesEntry = true
  · rw [if_pos h1] at h
    injection h with h
    exact .inl ⟨h1, h.symm⟩
  · rw [if_neg h1] at h
    by_cases h2 : s.followProgram.refusesCheck check = true
    · rw [if_pos h2] at h
      injection h with h
      exact .inr (.inl ⟨by simpa using h1, h2, h.symm⟩)
    · rw [if_neg h2] at h
      have ha : (!s.refusesEntry && !s.followProgram.refusesCheck check) = true := by simp_all
      split at h
      · injection h with h
        subst h
        exact .inr (.inr (.inr ⟨ha, by assumption⟩))
      · injection h with h
        exact .inr (.inr (.inl ⟨ha, _, by assumption, h.symm⟩))
      · exact absurd h (by simp)

/-- An admitted instruction comes to what its effect comes to. -/
theorem State.perform_admitted {s : State} {check : Check} (ha : s.admits check = true) (effect : State → Effect) :
    s.perform check effect =
      match effect s.followProgram with
      | .done s' => .next s'
      | .parity addr => .next (s.parityAbort addr)
      | .undefined r => .refused r := by
  simp only [State.admits, Bool.and_eq_true, Bool.not_eq_true'] at ha
  cases h : effect s.followProgram <;> simp [State.perform, ha.1, ha.2, h]

/-- An admitted instruction whose effect is done completes. -/
theorem State.perform_done {s t : State} {check : Check} {effect : State → Effect} (ha : s.admits check = true)
    (h : effect s.followProgram = .done t) : s.perform check effect = .next t := by
  simp only [State.admits, Bool.and_eq_true, Bool.not_eq_true'] at ha
  simp [State.perform, ha.1, ha.2, h]

/-- An admitted instruction that meets a parity error is aborted. -/
theorem State.perform_parity {s : State} {addr : Word} {check : Check} {effect : State → Effect}
    (ha : s.admits check = true) (h : effect s.followProgram = .parity addr) :
    s.perform check effect = .next (s.parityAbort addr) := by
  simp only [State.admits, Bool.and_eq_true, Bool.not_eq_true'] at ha
  simp [State.perform, ha.1, ha.2, h]

/-- An admitted instruction whose effect the spec does not give is refused. -/
theorem State.perform_undefined {s : State} {r : Refusal} {check : Check} {effect : State → Effect}
    (ha : s.admits check = true) (h : effect s.followProgram = .undefined r) :
    s.perform check effect = .refused r := by
  simp only [State.admits, Bool.and_eq_true, Bool.not_eq_true'] at ha
  simp [State.perform, ha.1, ha.2, h]

/-- Rule 2 refuses before anything else. -/
theorem State.perform_entry {s : State} {check : Check} {effect : State → Effect} (h : s.refusesEntry = true) :
    s.perform check effect = .next (s.refuse protectionLevel) := by
  simp [State.perform, h]

/-- The rule an instruction is checked for refuses it. -/
theorem State.perform_check {s : State} {check : Check} {effect : State → Effect} (h : s.refusesEntry = false)
    (hc : s.followProgram.refusesCheck check = true) :
    s.perform check effect = .next (s.followProgram.refuse protectionLevel) := by
  simp [State.perform, h, hc]

/-- With an effective address the instruction goes on with it. -/
theorem State.withEffectiveAddress_ok {s : State} {m : MemRef} {ea : Word} (k : Word → Result)
    (h : s.effectiveAddress m = .ok ea) : s.withEffectiveAddress m k = k ea := by
  simp [State.withEffectiveAddress, h]

/-- A parity error on the indirect read aborts the instruction. -/
theorem State.withEffectiveAddress_error {s : State} {m : MemRef} {bad : Word} (k : Word → Result)
    (h : s.effectiveAddress m = .error bad) : s.withEffectiveAddress m k = .next (s.parityAbort bad) := by
  simp [State.withEffectiveAddress, h]

/-- An instruction of the memory-reference format that answers a next state was aborted by its indirect read, or went
on with its effective address. -/
theorem State.withEffectiveAddress_next {s t : State} {m : MemRef} {k : Word → Result}
    (h : s.withEffectiveAddress m k = .next t) :
    (∃ bad, s.effectiveAddress m = .error bad ∧ t = s.parityAbort bad) ∨
    (∃ ea, s.effectiveAddress m = .ok ea ∧ k ea = .next t) := by
  unfold State.withEffectiveAddress at h
  split at h
  · exact .inr ⟨_, by assumption, h⟩
  · injection h with h
    exact .inl ⟨_, by assumption, h.symm⟩

/-- A word read without a parity error. -/
theorem State.withOperand_ok {s : State} {addr w : Word} (k : Word → Effect) (h : s.checkedRead addr = .ok w) :
    s.withOperand addr k = k w := by
  simp [State.withOperand, h]

/-- A parity error on an operand. -/
theorem State.withOperand_error {s : State} {addr bad : Word} (k : Word → Effect)
    (h : s.checkedRead addr = .error bad) : s.withOperand addr k = .parity bad := by
  simp [State.withOperand, h]

/-- An operand read that lets the effect be done has given a word. -/
theorem State.withOperand_done {s t : State} {addr : Word} {k : Word → Effect} (h : s.withOperand addr k = .done t) :
    ∃ w, s.checkedRead addr = .ok w ∧ k w = .done t := by
  unfold State.withOperand at h
  split at h
  · exact ⟨_, by assumption, h⟩
  · exact absurd h (by simp)

/-- A word an instruction reads is the word of memory. -/
theorem State.checkedRead_ok {s : State} {addr w : Word} (h : s.checkedRead addr = .ok w) : w = s.readWord addr := by
  unfold State.checkedRead at h
  split at h
  · exact absurd h (by simp)
  · injection h with h
    exact h.symm

/-- A parity error is reported at the address read. -/
theorem State.checkedRead_error {s : State} {addr bad : Word} (h : s.checkedRead addr = .error bad) :
    bad = addr ∧ s.parityError addr = true ∧ s.parityStops = true := by
  unfold State.checkedRead at h
  split at h
  · rename_i hc
    injection h with h
    exact ⟨h.symm, by simpa using hc⟩
  · exact absurd h (by simp)

/-- The checks and the reads of an instruction do not depend on PP. -/
@[simp] theorem State.followProgram_checkedRead (s : State) (addr : Word) :
    s.followProgram.checkedRead addr = s.checkedRead addr := rfl

@[simp] theorem State.followProgram_protectedAddress (s : State) (addr : Word) :
    s.followProgram.protectedAddress addr = s.protectedAddress addr := rfl

@[simp] theorem State.followProgram_refusesPrivileged (s : State) :
    s.followProgram.refusesPrivileged = s.refusesPrivileged := rfl

@[simp] theorem State.followProgram_refusesStore (s : State) (addr : Word) :
    s.followProgram.refusesStore addr = s.refusesStore addr := rfl

/-! ### Interrupt levels -/

/-- A signal on an installed level. -/
theorem State.trigger_signalled (s : State) (level : Level) (h : installed s.cfg level = true) :
    s.signalled level (s.trigger level) := by
  unfold State.signalled State.trigger
  by_cases ha : (s.level level).state = .armed
  · have hc : (installed s.cfg level && (s.level level).state == .armed) = true := by simp [h, ha]
    rw [if_pos hc]
    refine ⟨rfl, fun k => ?_⟩
    unfold State.setLevelState
    rw [State.setLevel_level]
    by_cases hk : k = level
    · subst hk; simp [ha]
    · simp [hk]
  · have hc : ¬(installed s.cfg level && (s.level level).state == .armed) = true := by simp [ha]
    rw [if_neg hc]
    refine ⟨rfl, fun k => ?_⟩
    rw [if_neg]
    rintro ⟨rfl, hk⟩
    exact ha hk

/-- A signal on a level that is not installed does nothing. -/
theorem State.trigger_uninstalled (s : State) (level : Level) (h : installed s.cfg level = false) :
    s.trigger level = s := by
  simp [State.trigger, h]

/-- The claimant is on the chain and active or eligible, and so is no level before it. -/
theorem State.claimant_some {s : State} {level : Level} (h : s.claimant = some level) :
    level ∈ chain s.cfg ∧ ((s.level level).state = .active ∨ s.eligible level = true) ∧
      ∃ higher lower, chain s.cfg = higher ++ level :: lower ∧
        ∀ k ∈ higher, (s.level k).state ≠ .active ∧ s.eligible k = false := by
  unfold State.claimant at h
  obtain ⟨hl, higher, lower, he, hn⟩ := List.find?_eq_some_iff_append.1 h
  refine ⟨he ▸ by simp, by simpa using hl, higher, lower, he, fun k hk => ?_⟩
  have := hn k hk
  simpa using this

/-- No claimant: nothing on the chain is active or eligible. -/
theorem State.claimant_none {s : State} (h : s.claimant = none) :
    ∀ level ∈ chain s.cfg, (s.level level).state ≠ .active ∧ s.eligible level = false := by
  unfold State.claimant at h
  intro level hl
  have := List.find?_eq_none.1 h level hl
  simpa using this

/-- The recognition step is suspended by the exit condition and by the first-instruction hold. -/
theorem State.recognize_suspended {s : State} (h : s.exitCondition = true ∨ s.hold = true) : s.recognize = s := by
  unfold State.recognize
  rw [if_pos]
  simpa using h

/-- A property that counting and entering keep, recognition keeps. -/
theorem recognizeLoop_keeps (P : State → Prop)
    (count : ∀ s k, P s → s.eligible (counterLevel k) = true → P (s.count k))
    (enter : ∀ s level, P s → s.eligible level = true → isCounter level = false → level ∈ chain s.cfg →
      P (s.enter level))
    (fuel : Nat) (s : State) (h : P s) : P (recognizeLoop fuel s) := by
  induction fuel generalizing s with
  | zero => exact h
  | succ fuel ih =>
    unfold recognizeLoop
    split
    · exact h
    · rename_i level hc
      obtain ⟨hm, he, -⟩ := State.claimant_some hc
      split
      · exact h
      · rename_i hna
        have hel : s.eligible level = true := he.resolve_left hna
        split
        · rename_i hlt
          exact ih _ (count s ⟨level.val, hlt⟩ h hel)
        · rename_i hlt
          exact enter s level h hel (by simpa [isCounter] using hlt) hm

theorem State.recognize_keeps (P : State → Prop)
    (count : ∀ s k, P s → s.eligible (counterLevel k) = true → P (s.count k))
    (enter : ∀ s level, P s → s.eligible level = true → isCounter level = false → level ∈ chain s.cfg →
      P (s.enter level))
    (s : State) (h : P s) : P s.recognize := by
  unfold State.recognize
  split
  · exact h
  · exact recognizeLoop_keeps P count enter 5 s h

/-! ### The cycle -/

/-- A step is the events of the boundary and one pass. -/
theorem step_next {s t : State} (h : step s = .next t) :
    (s.env = [] ∧ { s with parityFaults := [] }.pass = .next t) ∨
    (∃ events rest s1, s.env = events :: rest ∧
      { s with parityFaults := [], env := rest }.applyAll events = .next s1 ∧ s1.pass = .next t) := by
  unfold step State.cycle at h
  split at h
  · exact .inl ⟨by assumption, h⟩
  · split at h
    · exact .inr ⟨_, _, _, by assumption, by assumption, h⟩
    · exact absurd h (by simp)
    · exact absurd h (by simp)

/-- Applying events one by one keeps what each event and the I/O level's held signal keep. -/
theorem State.applyAll_keeps (P : State → Prop) (line : ∀ s, P s → P s.ioSignal) (one : ∀ s t e, P s → s.apply e = .next t → P t) :
    ∀ (events : List Event) (s t : State), P s → s.applyAll events = .next t → P t
  | [], s, t, hs, h => by
    simp only [State.applyAll, Host.Outcome.next.injEq] at h
    exact h ▸ hs
  | e :: rest, s, t, hs, h => by
    simp only [State.applyAll] at h
    split at h
    · exact State.applyAll_keeps P line one rest _ t (one s.ioSignal _ e (line s hs) (by assumption)) h
    · exact absurd h (by simp)
    · exact absurd h (by simp)

/-- An instruction step is a fetch that is aborted, or the instruction in D. -/
theorem State.instructionStep_next {s t : State} (h : s.instructionStep = .next t) :
    (∃ s1, s.fetch = .error s1 ∧ t = s1.complete) ∨
    (∃ s1 s2, s.fetch = .ok s1 ∧ exec (decodeWord s1.regD) s1 = .next s2 ∧ t = s2.complete) := by
  unfold State.instructionStep at h
  split at h
  · rename_i s1 hf
    unfold State.executeD at h
    split at h
    · exact absurd h (by simp)
    · split at h
      · rename_i s2 he
        injection h with h
        exact .inr ⟨s1, s2, hf, he, h.symm⟩
      · exact absurd h (by simp)
      · exact absurd h (by simp)
  · rename_i s1 hf
    injection h with h
    exact .inl ⟨s1, hf, h.symm⟩

/-- One pass: held on the connector, stopped, waiting, or an instruction step after recognition. -/
theorem State.pass_next {s t : State} (h : s.pass = .next t) :
    (∃ cmd, s.ioSignal.dio = some cmd ∧ t = s.ioSignal.awaitReply cmd) ∨
    (s.ioSignal.dio = none ∧
      (t = s.ioSignal ∨ t = s.ioSignal.recognitionPoint ∨ s.ioSignal.recognitionPoint.instructionStep = .next t)) := by
  unfold State.pass at h
  simp only at h
  split at h
  · injection h with h
    exact .inl ⟨_, by assumption, h.symm⟩
  · refine .inr ⟨by assumption, ?_⟩
    split at h
    · injection h with h
      exact .inl h.symm
    · split at h
      · injection h with h
        exact .inr (.inl h.symm)
      · exact .inr (.inr h)

end Sys2Proof.Machine
end

