-- ==== Sys2Proof/Laws/Devices.lean ====
section
/-! SUPPORT. The devices and the channel registers: what a look-up gives after a change. -/

namespace Sys2Proof.Machine

open Sys2Proof

/-- Looking up a number in a list changed without changing numbers. -/
theorem find_number_map (l : List Device) (g : Device → Device) (hg : ∀ d, (g d).number = d.number) (k : Byte) :
    (l.map g).find? (fun d => d.number == k) = (l.find? fun d => d.number == k).map g := by
  rw [List.find?_map]
  congr 1
  congr 1
  funext d
  simp [hg]

/-- A device is found under its number. -/
theorem State.device_number {s : State} {k : Byte} {d : Device} (h : s.device k = some d) : d.number = k := by
  unfold State.device at h
  have := List.find?_some h
  simpa using this

/-- The devices after one is changed. -/
theorem State.updateDevice_device (s : State) (n k : Byte) (f : Device → Device) (hf : ∀ d, (f d).number = d.number) :
    (s.updateDevice n f).device k = (s.device k).map fun d => if d.number = n then f d else d := by
  unfold State.updateDevice State.device
  exact find_number_map _ _ (fun d => by split <;> simp [hf]) k

/-- The devices after a controller's condition is set. -/
theorem State.setController_device (s : State) (n k : Byte) (condition : Condition) :
    (s.setController n condition).device k =
      (s.device k).map fun d => if sameController d.number n then { d with controller := condition } else d := by
  unfold State.setController State.device
  exact find_number_map _ _ (fun d => by split <;> simp) k

theorem sameController_refl (n : Byte) : sameController n n = true := by simp [sameController]

theorem ne_of_not_sameController {n k : Byte} (h : sameController k n = false) : k ≠ n := by
  rintro rfl
  simp [sameController_refl] at h

/-- A change that does not touch the device found. -/
theorem map_device_id {s : State} {k : Byte} (f : Device → Device) (h : ∀ d, s.device k = some d → f d = d) :
    (s.device k).map f = s.device k := by
  cases hd : s.device k with
  | none => rfl
  | some d => simp [h d hd]

/-- Changing one device leaves every other as it was. -/
theorem State.updateDevice_other (s : State) (n k : Byte) (f : Device → Device)
    (hf : ∀ d, (f d).number = d.number) (h : k ≠ n) : (s.updateDevice n f).device k = s.device k := by
  rw [State.updateDevice_device _ _ _ _ hf]
  refine map_device_id _ fun d hd => ?_
  have := State.device_number hd
  subst this
  simp [h]

/-- A started device is busy, with its controller. -/
theorem State.startDevice_self (s : State) (n : Byte) (phase : Phase) (d : Device) (h : s.device n = some d) :
    (s.startDevice n phase).device n = some { d with phase := phase, condition := .busy, controller := .busy } := by
  unfold State.startDevice
  rw [State.setController_device, State.updateDevice_device _ _ _ _ (by simp), h]
  simp [State.device_number h, sameController_refl]

/-- Starting a device leaves the devices of other controllers as they were. -/
theorem State.startDevice_other (s : State) (n k : Byte) (phase : Phase) (h : sameController k n = false) :
    (s.startDevice n phase).device k = s.device k := by
  unfold State.startDevice
  rw [State.setController_device, State.updateDevice_device _ _ _ _ (by simp), Option.map_map]
  refine map_device_id _ fun d hd => ?_
  have := State.device_number hd
  subst this
  simp [ne_of_not_sameController h, h]

/-- A device whose operation ends is ready, with its controller. -/
theorem State.endOperation_self (s : State) (n : Byte) (d : Device) (h : s.device n = some d) :
    (s.endOperation n).device n = some { d with phase := .quiet, condition := .ready, controller := .ready } := by
  unfold State.endOperation
  rw [State.setController_device, State.updateDevice_device _ _ _ _ (by simp), h]
  simp [State.device_number h, sameController_refl]

/-- Ending an operation leaves the devices of other controllers as they were. -/
theorem State.endOperation_other (s : State) (n k : Byte) (h : sameController k n = false) :
    (s.endOperation n).device k = s.device k := by
  unfold State.endOperation
  rw [State.setController_device, State.updateDevice_device _ _ _ _ (by simp), Option.map_map]
  refine map_device_id _ fun d hd => ?_
  have := State.device_number hd
  subst this
  simp [ne_of_not_sameController h, h]

/-- A channel register after a load. -/
theorem State.setChannel_channel (s : State) (k j : Nat) (v : Word) (h : k < 40) :
    (s.setChannel k v).channel j = if j = k then v else s.channel j := by
  unfold State.setChannel State.channel
  rw [dif_pos h]
  simp only [Vector.getElem_set]
  by_cases hj : j < 40
  · simp only [hj, dite_true]
    by_cases e : j = k
    · subst e
      simp
    · rw [if_neg e, if_neg (Ne.symm e)]
  · simp only [hj, dite_false]
    rw [if_neg (by omega)]

/-- A channel load changes nothing but the channel registers. -/
theorem State.setChannel_frame (s : State) (k : Nat) (v : Word) :
    s.setChannel k v = { s with ch := (s.setChannel k v).ch } := by
  unfold State.setChannel
  split <;> rfl

/-- Every channel of a configuration has its registers in the block. -/
theorem ioChannels_le (cfg : Config) : ioChannels cfg ≤ 20 := by
  have := cfg.ioBlocks.isLt
  unfold ioChannels
  omega

/-- Marking an error changes only the error flag of the odd register. -/
theorem markError_msb (w : Word) (error : Bool) : (markError w error).msb = (w.msb || error) := by
  cases error
  · simp [markError]
  · simp [markError, BitVec.msb_or]
    right
    decide

end Sys2Proof.Machine
end

