-- ==== Sys2Proof/Laws/Interrupts.lean ====
section
/-! SUPPORT. Interrupt entry: the words and levels after it, and the bits of the status word. -/

namespace Sys2Proof.Machine

open Sys2Proof

/-- The bits of the status word, one by one (10_state.md R26). -/
theorem State.statusWord_bit (s : State) (k : Fin 16) : s.statusWord.bit k =
    (match k.val with
      | 8 => s.pp
      | 10 => s.ii
      | 11 => s.ei
      | 14 => s.o
      | 15 => s.c
      | _ => false) := by
  unfold State.statusWord
  cases s.pp <;> cases s.ii <;> cases s.ei <;> cases s.o <;> cases s.c <;> revert k <;> decide

/-- Putting a level in a state changes no other level. -/
theorem State.setLevelState_level (s : State) (level k : Level) (st : LevelState) :
    (s.setLevelState level st).level k = if k = level then { s.level k with state := st } else s.level k := by
  unfold State.setLevelState
  rw [State.setLevel_level]
  split
  · rename_i h
    rw [h]
  · rfl

/-- The words after an entry: the program address over the status word over what was there. -/
theorem State.enter_readWord (s : State) (level : Level) (a q : Word) (hc : s.mem.Canonical)
    (hq : q = s.readWord (levelLocation level)) : (s.enter level).readWord a =
      if a = q + 1 ∧ s.hasLocation (q + 1) then s.p
      else if a = q ∧ s.hasLocation q then s.statusWord
      else s.readWord a := by
  have h : (s.enter level).readWord a =
      (((s.setLevelState level .active).writeWord q s.statusWord).writeWord (q + 1) s.p).readWord a := by
    rw [hq]
    rfl
  have hcan : (s.setLevelState level .active).mem.Canonical := hc
  have hcan1 : ((s.setLevelState level .active).writeWord q s.statusWord).mem.Canonical := by
    rw [State.writeWord_mem]
    split
    · exact Memory.setByte_canonical _ _ _ (Memory.setByte_canonical _ _ _ hcan)
    · exact hcan
  rw [h, State.readWord_writeWord _ _ _ _ hcan1, State.readWord_writeWord _ _ _ _ hcan]
  rfl

/-- The levels after an entry. -/
theorem State.enter_level (s : State) (level k : Level) :
    (s.enter level).level k = if k = level then { s.level k with state := .active } else s.level k :=
  State.setLevelState_level s level k .active

/-- A signal changes nothing but the levels. -/
theorem State.trigger_frame (s : State) (level : Level) :
    s.trigger level = { s with levels := (s.trigger level).levels } := by
  unfold State.trigger
  split <;> rfl

/-- A signal changes no enable flip-flop. -/
theorem State.trigger_enabled (s : State) (level k : Level) :
    ((s.trigger level).level k).enabled = (s.level k).enabled := by
  by_cases h : installed s.cfg level = true
  · rw [(State.trigger_signalled s level h).2 k]
    split <;> rfl
  · rw [State.trigger_uninstalled _ _ (by simpa using h)]

/-- The held signal of the I/O level. -/
theorem State.ioSignal_applied (s : State) : s.lineApplied s.ioSignal := by
  unfold State.lineApplied State.ioSignal
  split
  · exact State.trigger_signalled s ioLevel rfl
  · rfl

/-- The end of an instruction. -/
theorem State.finish_completed (s : State) : s.completed s.finish := by
  unfold State.completed State.finish State.signalWired
  cases s.dioFailure
  · simp
  · cases h : s.cfg.dioFailureLevel with
    | none => simp
    | some level =>
      simp only [if_true]
      by_cases h1 : takesExternalSignal level = true
      · by_cases h2 : installed s.cfg level = true
        · simp only [h1, h2, and_self, if_true]
          exact State.trigger_signalled _ level h2
        · simp only [h1, if_true, h2]
          exact State.trigger_uninstalled _ level (by simpa using h2)
      · simp [h1]

/-- The panel's access to an instruction that can be read without a parity error. -/
theorem State.accessInstruction_ok (s : State) (h : s.parityError s.p = false) :
    s.accessInstruction = { s with regH := s.p, regD := s.readWord s.p } := by
  simp [State.accessInstruction, h]

/-- A change of the power changes neither memory nor a device nor the panel. -/
theorem State.changePower_keeps (s s1 : State) : (s.changePower s1).mem = s1.mem ∧
    (s.changePower s1).devices = s1.devices ∧ (s.changePower s1).panel = s1.panel ∧
    (s.changePower s1).supply = s1.supply ∧ (s.changePower s1).cfg = s1.cfg := by
  unfold State.changePower
  split
  · simp [State.powerUp]
  · split <;> simp

end Sys2Proof.Machine
end

