-- ==== Sys2Proof/Laws/PerInstr.lean ====
section
/-! SUPPORT. The family `EncodedAsRow`: an instruction's word, and the effective address that selects its function,
match the mask and pattern of its row of spec/opcode_table.json (30_encoding.md R99, R100). -/

namespace Sys2Proof.Laws

open Sys2Proof

/-- The mask and the pattern that a row puts on the instruction word. -/
def rowPattern (i : Instr) : Word × Word :=
  match i with
  | .wd _ => (0xF000#16, 0x0000#16)
  | .rd _ => (0xF000#16, 0x1000#16)
  | .shift _ => (0xF000#16, 0x2000#16)
  | .mul _ => (0xF000#16, 0x3000#16)
  | .b _ => (0xF000#16, 0x4000#16)
  | .div _ => (0xF000#16, 0x5000#16)
  | .lda _ => (0xF000#16, 0x8000#16)
  | .and _ => (0xF000#16, 0x9000#16)
  | .add _ => (0xF000#16, 0xA000#16)
  | .sub _ => (0xF000#16, 0xB000#16)
  | .ldx _ => (0xF000#16, 0xC000#16)
  | .cp _ => (0xF000#16, 0xD000#16)
  | .sta _ => (0xF000#16, 0xE000#16)
  | .im _ => (0xF000#16, 0xF000#16)
  | .ldxExitForm _ => (0xF000#16, 0xC000#16)
  | .bno _ => (0xFE00#16, 0x6000#16)
  | .bnc _ => (0xFE00#16, 0x6200#16)
  | .baz _ => (0xFE00#16, 0x6400#16)
  | .bix _ => (0xFE00#16, 0x6600#16)
  | .bxno _ => (0xFE00#16, 0x6800#16)
  | .bxnc _ => (0xFE00#16, 0x6A00#16)
  | .ben _ => (0xFE00#16, 0x6C00#16)
  | .ban _ => (0xFE00#16, 0x6E00#16)
  | .copy _ => (0xF000#16, 0x7000#16)
  | .rand _ => (0xFF80#16, 0x7000#16)
  | .randi _ => (0xFF80#16, 0x7100#16)
  | .randc _ => (0xFF80#16, 0x7200#16)
  | .ror _ => (0xFF80#16, 0x7400#16)
  | .rcpy _ => (0xFF80#16, 0x7480#16)
  | .rori _ => (0xFF80#16, 0x7500#16)
  | .rcpyi _ => (0xFF80#16, 0x7580#16)
  | .rorc _ => (0xFF80#16, 0x7600#16)
  | .rcpyc _ => (0xFF80#16, 0x7680#16)
  | .reor _ => (0xFF80#16, 0x7800#16)
  | .reori _ => (0xFF80#16, 0x7900#16)
  | .reorc _ => (0xFF80#16, 0x7A00#16)
  | .radd _ => (0xFF80#16, 0x7C00#16)
  | .raddi _ => (0xFF80#16, 0x7D00#16)
  | .raddc _ => (0xFF80#16, 0x7E00#16)
  | .sio => (0xF000#16, 0x1000#16)
  | .tio => (0xF000#16, 0x1000#16)
  | .tdv => (0xF000#16, 0x1000#16)
  | .hio => (0xF000#16, 0x1000#16)
  | .aio => (0xF000#16, 0x1000#16)
  | .rdRegister _ => (0xF000#16, 0x1000#16)
  | .rdDataSwitches => (0xF000#16, 0x1000#16)
  | .rdSaveStatus => (0xF000#16, 0x1000#16)
  | .rdSaveStatusResetInhibits _ _ => (0xF000#16, 0x1000#16)
  | .rdSaveStatusSetInhibits _ _ => (0xF000#16, 0x1000#16)
  | .rdDirectIO _ => (0xF000#16, 0x1000#16)
  | .wdRegister _ => (0xF000#16, 0x0000#16)
  | .wdTestAndResetBit0 _ => (0xF000#16, 0x0000#16)
  | .wdProtectionRegister _ => (0xF000#16, 0x0000#16)
  | .wdLoadStatus => (0xF000#16, 0x0000#16)
  | .wdWait => (0xF000#16, 0x0000#16)
  | .wdExit => (0xF000#16, 0x0000#16)
  | .wdResetInhibits _ _ => (0xF000#16, 0x0000#16)
  | .wdSetInhibits _ _ => (0xF000#16, 0x0000#16)
  | .wdInterruptControl001 _ => (0xF000#16, 0x0000#16)
  | .wdInterruptControl010 _ => (0xF000#16, 0x0000#16)
  | .wdInterruptControl011 _ => (0xF000#16, 0x0000#16)
  | .wdInterruptControl100 _ => (0xF000#16, 0x0000#16)
  | .wdInterruptControl101 _ => (0xF000#16, 0x0000#16)
  | .wdInterruptControl110 _ => (0xF000#16, 0x0000#16)
  | .wdInterruptControl111 _ => (0xF000#16, 0x0000#16)
  | .wdWatchdogDisable => (0xF000#16, 0x0000#16)
  | .wdWatchdogEnable => (0xF000#16, 0x0000#16)
  | .wdWatchdogResetTimer => (0xF000#16, 0x0000#16)
  | .wdDirectIO _ => (0xF000#16, 0x0000#16)

/-- The mask and the pattern that a row of RD or WD puts on the effective address. -/
def rowAddress (i : Instr) : Option (Word × Word) :=
  match i with
  | .wd _ => none
  | .rd _ => none
  | .shift _ => none
  | .mul _ => none
  | .b _ => none
  | .div _ => none
  | .lda _ => none
  | .and _ => none
  | .add _ => none
  | .sub _ => none
  | .ldx _ => none
  | .cp _ => none
  | .sta _ => none
  | .im _ => none
  | .ldxExitForm _ => none
  | .bno _ => none
  | .bnc _ => none
  | .baz _ => none
  | .bix _ => none
  | .bxno _ => none
  | .bxnc _ => none
  | .ben _ => none
  | .ban _ => none
  | .copy _ => none
  | .rand _ => none
  | .randi _ => none
  | .randc _ => none
  | .ror _ => none
  | .rcpy _ => none
  | .rori _ => none
  | .rcpyi _ => none
  | .rorc _ => none
  | .rcpyc _ => none
  | .reor _ => none
  | .reori _ => none
  | .reorc _ => none
  | .radd _ => none
  | .raddi _ => none
  | .raddc _ => none
  | .sio => some (0xFFFF#16, 0x0041#16)
  | .tio => some (0xFFFF#16, 0x0042#16)
  | .tdv => some (0xFFFF#16, 0x0044#16)
  | .hio => some (0xFFFF#16, 0x0048#16)
  | .aio => some (0xFFFF#16, 0x0050#16)
  | .rdRegister _ => some (0xFFC0#16, 0x0000#16)
  | .rdDataSwitches => some (0xFFFF#16, 0x0080#16)
  | .rdSaveStatus => some (0xFFFF#16, 0x00C0#16)
  | .rdSaveStatusResetInhibits _ _ => some (0xFFF3#16, 0x00E0#16)
  | .rdSaveStatusSetInhibits _ _ => some (0xFFF3#16, 0x00F0#16)
  | .rdDirectIO _ => none
  | .wdRegister _ => some (0xFFC0#16, 0x0000#16)
  | .wdTestAndResetBit0 _ => some (0xFFC0#16, 0x0040#16)
  | .wdProtectionRegister _ => some (0xFFF0#16, 0x0080#16)
  | .wdLoadStatus => some (0xFFFF#16, 0x00C0#16)
  | .wdWait => some (0xFFFF#16, 0x00D0#16)
  | .wdExit => some (0xFFFF#16, 0x00D8#16)
  | .wdResetInhibits _ _ => some (0xFFF3#16, 0x00E0#16)
  | .wdSetInhibits _ _ => some (0xFFF3#16, 0x00F0#16)
  | .wdInterruptControl001 _ => some (0xFFF0#16, 0x1100#16)
  | .wdInterruptControl010 _ => some (0xFFF0#16, 0x1200#16)
  | .wdInterruptControl011 _ => some (0xFFF0#16, 0x1300#16)
  | .wdInterruptControl100 _ => some (0xFFF0#16, 0x1400#16)
  | .wdInterruptControl101 _ => some (0xFFF0#16, 0x1500#16)
  | .wdInterruptControl110 _ => some (0xFFF0#16, 0x1600#16)
  | .wdInterruptControl111 _ => some (0xFFF0#16, 0x1700#16)
  | .wdWatchdogDisable => some (0xFFFF#16, 0x0100#16)
  | .wdWatchdogEnable => some (0xFFFF#16, 0x0200#16)
  | .wdWatchdogResetTimer => some (0xFFFF#16, 0x0300#16)
  | .wdDirectIO _ => none

/-- The effective address that selects the function of a row of RD or WD. -/
def functionAddress (i : Instr) : Option Word :=
  match i with
  | .wd _ => none
  | .rd _ => none
  | .shift _ => none
  | .mul _ => none
  | .b _ => none
  | .div _ => none
  | .lda _ => none
  | .and _ => none
  | .add _ => none
  | .sub _ => none
  | .ldx _ => none
  | .cp _ => none
  | .sta _ => none
  | .im _ => none
  | .ldxExitForm _ => none
  | .bno _ => none
  | .bnc _ => none
  | .baz _ => none
  | .bix _ => none
  | .bxno _ => none
  | .bxnc _ => none
  | .ben _ => none
  | .ban _ => none
  | .copy _ => none
  | .rand _ => none
  | .randi _ => none
  | .randc _ => none
  | .ror _ => none
  | .rcpy _ => none
  | .rori _ => none
  | .rcpyi _ => none
  | .rorc _ => none
  | .rcpyc _ => none
  | .reor _ => none
  | .reori _ => none
  | .reorc _ => none
  | .radd _ => none
  | .raddi _ => none
  | .raddc _ => none
  | .sio => some (RdFunction.ea .sio)
  | .tio => some (RdFunction.ea .tio)
  | .tdv => some (RdFunction.ea .tdv)
  | .hio => some (RdFunction.ea .hio)
  | .aio => some (RdFunction.ea .aio)
  | .rdRegister n => some (RdFunction.ea (.register n))
  | .rdDataSwitches => some (RdFunction.ea .dataSwitches)
  | .rdSaveStatus => some (RdFunction.ea .saveStatus)
  | .rdSaveStatusResetInhibits i e => some (RdFunction.ea (.saveStatusResetInhibits i e))
  | .rdSaveStatusSetInhibits i e => some (RdFunction.ea (.saveStatusSetInhibits i e))
  | .rdDirectIO ea => some (RdFunction.ea (.directIO ea))
  | .wdRegister n => some (WdFunction.ea (.register n))
  | .wdTestAndResetBit0 n => some (WdFunction.ea (.testAndResetBit0 n))
  | .wdProtectionRegister r => some (WdFunction.ea (.protectionRegister r))
  | .wdLoadStatus => some (WdFunction.ea .loadStatus)
  | .wdWait => some (WdFunction.ea .wait)
  | .wdExit => some (WdFunction.ea .exit)
  | .wdResetInhibits i e => some (WdFunction.ea (.resetInhibits i e))
  | .wdSetInhibits i e => some (WdFunction.ea (.setInhibits i e))
  | .wdInterruptControl001 g => some (WdFunction.ea (.interruptControl001 g))
  | .wdInterruptControl010 g => some (WdFunction.ea (.interruptControl010 g))
  | .wdInterruptControl011 g => some (WdFunction.ea (.interruptControl011 g))
  | .wdInterruptControl100 g => some (WdFunction.ea (.interruptControl100 g))
  | .wdInterruptControl101 g => some (WdFunction.ea (.interruptControl101 g))
  | .wdInterruptControl110 g => some (WdFunction.ea (.interruptControl110 g))
  | .wdInterruptControl111 g => some (WdFunction.ea (.interruptControl111 g))
  | .wdWatchdogDisable => some (WdFunction.ea .watchdogDisable)
  | .wdWatchdogEnable => some (WdFunction.ea .watchdogEnable)
  | .wdWatchdogResetTimer => some (WdFunction.ea .watchdogResetTimer)
  | .wdDirectIO ea => some (WdFunction.ea (.directIO ea))

/-- The word and the effective address of an instruction are those of its row. -/
def EncodedAsRow.Statement (i : Instr) : Prop :=
  (∀ w, encode i = some w → w &&& (rowPattern i).1 = (rowPattern i).2) ∧
  (∀ ea pattern, functionAddress i = some ea → rowAddress i = some pattern → ea &&& pattern.1 = pattern.2)

/-- A mask that covers the high bits only. -/
theorem and_high_bits {k n : Nat} (hi mask : BitVec k) (lo : BitVec n) :
    (hi ++ lo) &&& (mask ++ 0#n) = (hi &&& mask) ++ 0#n := by
  rw [BitVec.and_append, BitVec.and_zero]

/-- A memory-reference word has its operation code. -/
theorem memRef_matches (op : BitVec 4) (m : MemRef) (w : Word) (h : encodeMemRef op m = some w) :
    w &&& 0xF000#16 = op ++ 0#12 := by
  injection h with h
  subst h
  exact (and_high_bits op 0xF#4 _).trans (by rw [show 0xF#4 = BitVec.allOnes 4 from rfl, BitVec.and_allOnes])

/-- A conditional branch word has its operation code and condition. -/
theorem branch_matches (condition : BitVec 3) (disp : BitVec 9) (w : Word)
    (h : encodeBranch condition disp = some w) : w &&& 0xFE00#16 = 0x6#4 ++ condition ++ 0#9 := by
  injection h with h
  subst h
  exact (and_high_bits (0x6#4 ++ condition) 0x7F#7 disp).trans (by revert condition; decide)

/-- A copy word has the fields of its setting. -/
theorem copy_matches (op : CopyOp) (ac ai cd : Bool) (f : CopyOperands) (w : Word)
    (h : encodeCopy op ac ai cd f = some w) :
    w &&& 0xFF80#16 = 0x7#4 ++ op.bits ++ BitVec.ofBool ac ++ BitVec.ofBool ai ++ BitVec.ofBool cd ++ 0#7 := by
  injection h with h
  subst h
  exact (and_high_bits _ 0x1FF#9 f.bits).trans (by rw [show 0x1FF#9 = BitVec.allOnes 9 from rfl, BitVec.and_allOnes])

/-- A copy word of any setting has the operation code of the copy format. -/
theorem copy_any_matches (op : CopyOp) (ac ai cd : Bool) (f : CopyOperands) (w : Word)
    (h : encodeCopy op ac ai cd f = some w) : w &&& 0xF000#16 = 0x7000#16 := by
  have h1 := copy_matches op ac ai cd f w h
  have h2 : w &&& 0xF000#16 = (w &&& 0xFF80#16) &&& 0xF000#16 := by rw [BitVec.and_assoc]; rfl
  rw [h2, h1]
  clear h h1 h2
  cases op <;> cases ac <;> cases ai <;> cases cd <;> rfl

/-- The word of an RD function has the operation code of RD. -/
theorem rd_matches (f : RdFunction) (w : Word) (h : encodeRd f = some w) : w &&& 0xF000#16 = 0x1000#16 := by
  injection h with h
  subst h
  exact (and_high_bits 0x10#8 0xF0#8 f.ea.lo).trans rfl

/-- The word of a WD function has the operation code of WD. -/
theorem wd_matches (f : WdFunction) (w : Word) (h : encodeWd f = some w) : w &&& 0xF000#16 = 0x0000#16 := by
  injection h with h
  subst h
  exact (and_high_bits 0x00#8 0xF0#8 f.ea.lo).trans rfl

/-- An effective address with a register number or level group in its low bits. -/
theorem address_matches {k n : Nat} (hi : BitVec k) (lo : BitVec n) :
    (hi ++ lo) &&& (BitVec.allOnes k ++ 0#n) = hi ++ 0#n := by
  rw [and_high_bits, BitVec.and_allOnes]

/-- Nothing to match: no word. -/
theorem no_word {w pattern : Word} {mask : Word} (h : (none : Option Word) = some w) : w &&& mask = pattern := by
  simp at h

/-- Nothing to match: no effective address, or no pattern on it. -/
theorem no_address {i : Instr} (h : rowAddress i = none) (ea : Word) (pattern : Word × Word)
    (_ : functionAddress i = some ea) (hp : rowAddress i = some pattern) : ea &&& pattern.1 = pattern.2 := by
  rw [h] at hp
  simp at hp

/-- The pattern on the effective address of a row. -/
theorem some_address {i : Instr} {ea mask pattern : Word} (hf : functionAddress i = some ea)
    (hr : rowAddress i = some (mask, pattern)) (h : ea &&& mask = pattern) (ea1 : Word) (p : Word × Word)
    (h1 : functionAddress i = some ea1) (h2 : rowAddress i = some p) : ea1 &&& p.1 = p.2 := by
  rw [hf] at h1
  rw [hr] at h2
  injection h1 with h1
  injection h2 with h2
  subst h1 h2
  exact h

theorem EncodedAsRow.wd (m : MemRef) : EncodedAsRow.Statement (.wd m) :=
  ⟨fun w h => memRef_matches 0x0#4 m w h, no_address rfl⟩

theorem EncodedAsRow.rd (m : MemRef) : EncodedAsRow.Statement (.rd m) :=
  ⟨fun w h => memRef_matches 0x1#4 m w h, no_address rfl⟩

theorem EncodedAsRow.shift (m : MemRef) : EncodedAsRow.Statement (.shift m) :=
  ⟨fun w h => memRef_matches 0x2#4 m w h, no_address rfl⟩

theorem EncodedAsRow.mul (m : MemRef) : EncodedAsRow.Statement (.mul m) :=
  ⟨fun w h => memRef_matches 0x3#4 m w h, no_address rfl⟩

theorem EncodedAsRow.b (m : MemRef) : EncodedAsRow.Statement (.b m) :=
  ⟨fun w h => memRef_matches 0x4#4 m w h, no_address rfl⟩

theorem EncodedAsRow.div (m : MemRef) : EncodedAsRow.Statement (.div m) :=
  ⟨fun w h => memRef_matches 0x5#4 m w h, no_address rfl⟩

theorem EncodedAsRow.lda (m : MemRef) : EncodedAsRow.Statement (.lda m) :=
  ⟨fun w h => memRef_matches 0x8#4 m w h, no_address rfl⟩

theorem EncodedAsRow.and (m : MemRef) : EncodedAsRow.Statement (.and m) :=
  ⟨fun w h => memRef_matches 0x9#4 m w h, no_address rfl⟩

theorem EncodedAsRow.add (m : MemRef) : EncodedAsRow.Statement (.add m) :=
  ⟨fun w h => memRef_matches 0xA#4 m w h, no_address rfl⟩

theorem EncodedAsRow.sub (m : MemRef) : EncodedAsRow.Statement (.sub m) :=
  ⟨fun w h => memRef_matches 0xB#4 m w h, no_address rfl⟩

theorem EncodedAsRow.ldx (m : MemRef) : EncodedAsRow.Statement (.ldx m) :=
  ⟨fun w h => memRef_matches 0xC#4 m w h, no_address rfl⟩

theorem EncodedAsRow.cp (m : MemRef) : EncodedAsRow.Statement (.cp m) :=
  ⟨fun w h => memRef_matches 0xD#4 m w h, no_address rfl⟩

theorem EncodedAsRow.sta (m : MemRef) : EncodedAsRow.Statement (.sta m) :=
  ⟨fun w h => memRef_matches 0xE#4 m w h, no_address rfl⟩

theorem EncodedAsRow.im (m : MemRef) : EncodedAsRow.Statement (.im m) :=
  ⟨fun w h => memRef_matches 0xF#4 m w h, no_address rfl⟩

theorem EncodedAsRow.ldxExitForm (m : MemRef) : EncodedAsRow.Statement (.ldxExitForm m) :=
  ⟨fun _ h => no_word h, no_address rfl⟩

theorem EncodedAsRow.bno (disp : BitVec 9) : EncodedAsRow.Statement (.bno disp) :=
  ⟨fun w h => branch_matches 0#3 disp w h, no_address rfl⟩

theorem EncodedAsRow.bnc (disp : BitVec 9) : EncodedAsRow.Statement (.bnc disp) :=
  ⟨fun w h => branch_matches 1#3 disp w h, no_address rfl⟩

theorem EncodedAsRow.baz (disp : BitVec 9) : EncodedAsRow.Statement (.baz disp) :=
  ⟨fun w h => branch_matches 2#3 disp w h, no_address rfl⟩

theorem EncodedAsRow.bix (disp : BitVec 9) : EncodedAsRow.Statement (.bix disp) :=
  ⟨fun w h => branch_matches 3#3 disp w h, no_address rfl⟩

theorem EncodedAsRow.bxno (disp : BitVec 9) : EncodedAsRow.Statement (.bxno disp) :=
  ⟨fun w h => branch_matches 4#3 disp w h, no_address rfl⟩

theorem EncodedAsRow.bxnc (disp : BitVec 9) : EncodedAsRow.Statement (.bxnc disp) :=
  ⟨fun w h => branch_matches 5#3 disp w h, no_address rfl⟩

theorem EncodedAsRow.ben (disp : BitVec 9) : EncodedAsRow.Statement (.ben disp) :=
  ⟨fun w h => branch_matches 6#3 disp w h, no_address rfl⟩

theorem EncodedAsRow.ban (disp : BitVec 9) : EncodedAsRow.Statement (.ban disp) :=
  ⟨fun w h => branch_matches 7#3 disp w h, no_address rfl⟩

theorem EncodedAsRow.copy (f : CopyFields) : EncodedAsRow.Statement (.copy f) :=
  ⟨fun w h => copy_any_matches _ _ _ _ _ w h, no_address rfl⟩

theorem EncodedAsRow.rand (f : CopyOperands) : EncodedAsRow.Statement (.rand f) :=
  ⟨fun w h => copy_matches _ _ _ _ f w h, no_address rfl⟩

theorem EncodedAsRow.randi (f : CopyOperands) : EncodedAsRow.Statement (.randi f) :=
  ⟨fun w h => copy_matches _ _ _ _ f w h, no_address rfl⟩

theorem EncodedAsRow.randc (f : CopyOperands) : EncodedAsRow.Statement (.randc f) :=
  ⟨fun w h => copy_matches _ _ _ _ f w h, no_address rfl⟩

theorem EncodedAsRow.ror (f : CopyOperands) : EncodedAsRow.Statement (.ror f) :=
  ⟨fun w h => copy_matches _ _ _ _ f w h, no_address rfl⟩

theorem EncodedAsRow.rcpy (f : CopyOperands) : EncodedAsRow.Statement (.rcpy f) :=
  ⟨fun w h => copy_matches _ _ _ _ f w h, no_address rfl⟩

theorem EncodedAsRow.rori (f : CopyOperands) : EncodedAsRow.Statement (.rori f) :=
  ⟨fun w h => copy_matches _ _ _ _ f w h, no_address rfl⟩

theorem EncodedAsRow.rcpyi (f : CopyOperands) : EncodedAsRow.Statement (.rcpyi f) :=
  ⟨fun w h => copy_matches _ _ _ _ f w h, no_address rfl⟩

theorem EncodedAsRow.rorc (f : CopyOperands) : EncodedAsRow.Statement (.rorc f) :=
  ⟨fun w h => copy_matches _ _ _ _ f w h, no_address rfl⟩

theorem EncodedAsRow.rcpyc (f : CopyOperands) : EncodedAsRow.Statement (.rcpyc f) :=
  ⟨fun w h => copy_matches _ _ _ _ f w h, no_address rfl⟩

theorem EncodedAsRow.reor (f : CopyOperands) : EncodedAsRow.Statement (.reor f) :=
  ⟨fun w h => copy_matches _ _ _ _ f w h, no_address rfl⟩

theorem EncodedAsRow.reori (f : CopyOperands) : EncodedAsRow.Statement (.reori f) :=
  ⟨fun w h => copy_matches _ _ _ _ f w h, no_address rfl⟩

theorem EncodedAsRow.reorc (f : CopyOperands) : EncodedAsRow.Statement (.reorc f) :=
  ⟨fun w h => copy_matches _ _ _ _ f w h, no_address rfl⟩

theorem EncodedAsRow.radd (f : CopyOperands) : EncodedAsRow.Statement (.radd f) :=
  ⟨fun w h => copy_matches _ _ _ _ f w h, no_address rfl⟩

theorem EncodedAsRow.raddi (f : CopyOperands) : EncodedAsRow.Statement (.raddi f) :=
  ⟨fun w h => copy_matches _ _ _ _ f w h, no_address rfl⟩

theorem EncodedAsRow.raddc (f : CopyOperands) : EncodedAsRow.Statement (.raddc f) :=
  ⟨fun w h => copy_matches _ _ _ _ f w h, no_address rfl⟩

theorem EncodedAsRow.sio : EncodedAsRow.Statement .sio :=
  ⟨fun w h => rd_matches _ w h, some_address rfl rfl rfl⟩

theorem EncodedAsRow.tio : EncodedAsRow.Statement .tio :=
  ⟨fun w h => rd_matches _ w h, some_address rfl rfl rfl⟩

theorem EncodedAsRow.tdv : EncodedAsRow.Statement .tdv :=
  ⟨fun w h => rd_matches _ w h, some_address rfl rfl rfl⟩

theorem EncodedAsRow.hio : EncodedAsRow.Statement .hio :=
  ⟨fun w h => rd_matches _ w h, some_address rfl rfl rfl⟩

theorem EncodedAsRow.aio : EncodedAsRow.Statement .aio :=
  ⟨fun w h => rd_matches _ w h, some_address rfl rfl rfl⟩

theorem EncodedAsRow.rdRegister (n : BitVec 6) : EncodedAsRow.Statement (.rdRegister n) :=
  ⟨fun w h => rd_matches _ w h, some_address rfl rfl (address_matches _ n)⟩

theorem EncodedAsRow.rdDataSwitches : EncodedAsRow.Statement .rdDataSwitches :=
  ⟨fun w h => rd_matches _ w h, some_address rfl rfl rfl⟩

theorem EncodedAsRow.rdSaveStatus : EncodedAsRow.Statement .rdSaveStatus :=
  ⟨fun w h => rd_matches _ w h, some_address rfl rfl rfl⟩

theorem EncodedAsRow.rdSaveStatusResetInhibits (i : Bool) (e : Bool) : EncodedAsRow.Statement (.rdSaveStatusResetInhibits i e) :=
  ⟨fun w h => rd_matches _ w h, some_address rfl rfl (by cases i <;> cases e <;> rfl)⟩

theorem EncodedAsRow.rdSaveStatusSetInhibits (i : Bool) (e : Bool) : EncodedAsRow.Statement (.rdSaveStatusSetInhibits i e) :=
  ⟨fun w h => rd_matches _ w h, some_address rfl rfl (by cases i <;> cases e <;> rfl)⟩

theorem EncodedAsRow.rdDirectIO (ea : Word) : EncodedAsRow.Statement (.rdDirectIO ea) :=
  ⟨fun _ h => no_word h, no_address rfl⟩

theorem EncodedAsRow.wdRegister (n : BitVec 6) : EncodedAsRow.Statement (.wdRegister n) :=
  ⟨fun w h => wd_matches _ w h, some_address rfl rfl (address_matches _ n)⟩

theorem EncodedAsRow.wdTestAndResetBit0 (n : BitVec 6) : EncodedAsRow.Statement (.wdTestAndResetBit0 n) :=
  ⟨fun w h => wd_matches _ w h, some_address rfl rfl (address_matches _ n)⟩

theorem EncodedAsRow.wdProtectionRegister (r : BitVec 4) : EncodedAsRow.Statement (.wdProtectionRegister r) :=
  ⟨fun w h => wd_matches _ w h, some_address rfl rfl (address_matches _ r)⟩

theorem EncodedAsRow.wdLoadStatus : EncodedAsRow.Statement .wdLoadStatus :=
  ⟨fun w h => wd_matches _ w h, some_address rfl rfl rfl⟩

theorem EncodedAsRow.wdWait : EncodedAsRow.Statement .wdWait :=
  ⟨fun w h => wd_matches _ w h, some_address rfl rfl rfl⟩

theorem EncodedAsRow.wdExit : EncodedAsRow.Statement .wdExit :=
  ⟨fun w h => wd_matches _ w h, some_address rfl rfl rfl⟩

theorem EncodedAsRow.wdResetInhibits (i : Bool) (e : Bool) : EncodedAsRow.Statement (.wdResetInhibits i e) :=
  ⟨fun w h => wd_matches _ w h, some_address rfl rfl (by cases i <;> cases e <;> rfl)⟩

theorem EncodedAsRow.wdSetInhibits (i : Bool) (e : Bool) : EncodedAsRow.Statement (.wdSetInhibits i e) :=
  ⟨fun w h => wd_matches _ w h, some_address rfl rfl (by cases i <;> cases e <;> rfl)⟩

theorem EncodedAsRow.wdInterruptControl001 (g : BitVec 4) : EncodedAsRow.Statement (.wdInterruptControl001 g) :=
  ⟨fun _ h => no_word h, some_address rfl rfl (address_matches _ g)⟩

theorem EncodedAsRow.wdInterruptControl010 (g : BitVec 4) : EncodedAsRow.Statement (.wdInterruptControl010 g) :=
  ⟨fun _ h => no_word h, some_address rfl rfl (address_matches _ g)⟩

theorem EncodedAsRow.wdInterruptControl011 (g : BitVec 4) : EncodedAsRow.Statement (.wdInterruptControl011 g) :=
  ⟨fun _ h => no_word h, some_address rfl rfl (address_matches _ g)⟩

theorem EncodedAsRow.wdInterruptControl100 (g : BitVec 4) : EncodedAsRow.Statement (.wdInterruptControl100 g) :=
  ⟨fun _ h => no_word h, some_address rfl rfl (address_matches _ g)⟩

theorem EncodedAsRow.wdInterruptControl101 (g : BitVec 4) : EncodedAsRow.Statement (.wdInterruptControl101 g) :=
  ⟨fun _ h => no_word h, some_address rfl rfl (address_matches _ g)⟩

theorem EncodedAsRow.wdInterruptControl110 (g : BitVec 4) : EncodedAsRow.Statement (.wdInterruptControl110 g) :=
  ⟨fun _ h => no_word h, some_address rfl rfl (address_matches _ g)⟩

theorem EncodedAsRow.wdInterruptControl111 (g : BitVec 4) : EncodedAsRow.Statement (.wdInterruptControl111 g) :=
  ⟨fun _ h => no_word h, some_address rfl rfl (address_matches _ g)⟩

theorem EncodedAsRow.wdWatchdogDisable : EncodedAsRow.Statement .wdWatchdogDisable :=
  ⟨fun _ h => no_word h, some_address rfl rfl rfl⟩

theorem EncodedAsRow.wdWatchdogEnable : EncodedAsRow.Statement .wdWatchdogEnable :=
  ⟨fun _ h => no_word h, some_address rfl rfl rfl⟩

theorem EncodedAsRow.wdWatchdogResetTimer : EncodedAsRow.Statement .wdWatchdogResetTimer :=
  ⟨fun _ h => no_word h, some_address rfl rfl rfl⟩

theorem EncodedAsRow.wdDirectIO (ea : Word) : EncodedAsRow.Statement (.wdDirectIO ea) :=
  ⟨fun _ h => no_word h, no_address rfl⟩

end Sys2Proof.Laws
end

