-- ==== Sys2Proof/Tests/Slice0.lean ====
section
/-! SUPPORT. Tests: the well-formedness checks, words written out from the spec's encodings, one or two small steps per
instruction with the results of spec/95_test_vectors.md, and for every obligation a state and operands that meet its
hypotheses. -/

namespace Sys2Proof.Tests

set_option Elab.async false

open Sys2Proof Sys2Proof.Machine

/-! ### Well-formedness refuses ill-formed terms -/

theorem test_wf_rd : (Instr.rd { r := false, i := false, x := false, s := false, d := 0x41 }).wellFormed = false := by
  decide

theorem test_wf_wd : (Instr.wd { r := false, i := false, x := false, s := false, d := 0xD8 }).wellFormed = false := by
  decide

theorem test_wf_copy : (Instr.copy
    { op := .add, ac := true, ai := false, cd := false, operands := { dr := .a, inv := false, sr := .t } }).wellFormed
      = false := by
  decide

theorem test_wf_rd_direct : (Instr.rdDirectIO 0x1FFF#16).wellFormed = false := by decide

theorem test_wf_wd_direct : (Instr.wdDirectIO 0x1200#16).wellFormed = false := by decide

/-! ### Words written out from the encodings (30_encoding.md R91, R95, R96, R97) -/

/-- R = 1, I = 0, X = 1, S = 0, displacement 1010 0101. -/
def ref1 : MemRef := { r := true, i := false, x := true, s := false, d := 0xA5 }

/-- R = 0, I = 1, X = 0, S = 1, displacement 0011 0110. -/
def ref2 : MemRef := { r := false, i := true, x := false, s := true, d := 0x36 }

/-- DR = 110, IS = 1, SR = 011. -/
def regs1 : CopyOperands := { dr := .e, inv := true, sr := .t }

/-- DR = 001, IS = 0, SR = 100. -/
def regs2 : CopyOperands := { dr := .p, inv := false, sr := .x1 }

theorem test_decode_memory_reference :
    decodeWord 0b0010_1010_10100101#16 = .shift ref1 ∧ decodeWord 0b0011_0101_00110110#16 = .mul ref2 ∧
    decodeWord 0b0100_1010_10100101#16 = .b ref1 ∧ decodeWord 0b0101_0101_00110110#16 = .div ref2 ∧
    decodeWord 0b1000_1010_10100101#16 = .lda ref1 ∧ decodeWord 0b1001_0101_00110110#16 = .and ref2 ∧
    decodeWord 0b1010_1010_10100101#16 = .add ref1 ∧ decodeWord 0b1011_0101_00110110#16 = .sub ref2 ∧
    decodeWord 0b1100_1010_10100101#16 = .ldx ref1 ∧ decodeWord 0b1101_0101_00110110#16 = .cp ref2 ∧
    decodeWord 0b1110_1010_10100101#16 = .sta ref1 ∧ decodeWord 0b1111_0101_00110110#16 = .im ref2 := by
  decide

theorem test_decode_branch :
    decodeWord 0b0110_000_1_10100101#16 = .bno 0x1A5 ∧ decodeWord 0b0110_001_0_00110110#16 = .bnc 0x036 ∧
    decodeWord 0b0110_010_1_10100101#16 = .baz 0x1A5 ∧ decodeWord 0b0110_011_0_00110110#16 = .bix 0x036 ∧
    decodeWord 0b0110_100_1_10100101#16 = .bxno 0x1A5 ∧ decodeWord 0b0110_101_0_00110110#16 = .bxnc 0x036 ∧
    decodeWord 0b0110_110_1_10100101#16 = .ben 0x1A5 ∧ decodeWord 0b0110_111_0_00110110#16 = .ban 0x036 := by
  decide

theorem test_decode_copy :
    decodeWord 0b0111_00_0_0_0_110_1_011#16 = .rand regs1 ∧ decodeWord 0b0111_00_0_1_0_001_0_100#16 = .randi regs2 ∧
    decodeWord 0b0111_00_1_0_0_110_1_011#16 = .randc regs1 ∧ decodeWord 0b0111_01_0_0_0_001_0_100#16 = .ror regs2 ∧
    decodeWord 0b0111_01_0_0_1_110_1_011#16 = .rcpy regs1 ∧ decodeWord 0b0111_01_0_1_0_001_0_100#16 = .rori regs2 ∧
    decodeWord 0b0111_01_0_1_1_110_1_011#16 = .rcpyi regs1 ∧ decodeWord 0b0111_01_1_0_0_001_0_100#16 = .rorc regs2 ∧
    decodeWord 0b0111_01_1_0_1_110_1_011#16 = .rcpyc regs1 ∧ decodeWord 0b0111_10_0_0_0_001_0_100#16 = .reor regs2 ∧
    decodeWord 0b0111_10_0_1_0_110_1_011#16 = .reori regs1 ∧ decodeWord 0b0111_10_1_0_0_001_0_100#16 = .reorc regs2 ∧
    decodeWord 0b0111_11_0_0_0_110_1_011#16 = .radd regs1 ∧ decodeWord 0b0111_11_0_1_0_001_0_100#16 = .raddi regs2 ∧
    decodeWord 0b0111_11_1_0_0_110_1_011#16 = .raddc regs1 ∧
    decodeWord 0b0111_11_1_1_1_001_0_100#16 =
      .copy { op := .add, ac := true, ai := true, cd := true, operands := regs2 } ∧
    decodeWord 0b0111_00_0_0_1_110_1_011#16 =
      .copy { op := .land, ac := false, ai := false, cd := true, operands := regs1 } := by
  decide

theorem test_decode_rd :
    decodeWord 0b0001_1010_10100101#16 = .rd ref1 ∧ decodeWord 0b0001_0000_01000001#16 = .sio ∧
    decodeWord 0b0001_0000_01000010#16 = .tio ∧ decodeWord 0b0001_0000_01000100#16 = .tdv ∧
    decodeWord 0b0001_0000_01001000#16 = .hio ∧ decodeWord 0b0001_0000_01010000#16 = .aio ∧
    decodeWord 0b0001_0000_00_101101#16 = .rdRegister 0b101101 ∧ decodeWord 0b0001_0000_10000000#16 = .rdDataSwitches ∧
    decodeWord 0b0001_0000_11000000#16 = .rdSaveStatus ∧
    decodeWord 0b0001_0000_1110_10_00#16 = .rdSaveStatusResetInhibits true false ∧
    decodeWord 0b0001_0000_1111_01_00#16 = .rdSaveStatusSetInhibits false true := by
  decide

theorem test_decode_wd :
    decodeWord 0b0000_0101_00110110#16 = .wd ref2 ∧ decodeWord 0b0000_0000_00_101101#16 = .wdRegister 0b101101 ∧
    decodeWord 0b0000_0000_01_010010#16 = .wdTestAndResetBit0 0b010010 ∧
    decodeWord 0b0000_0000_1000_1001#16 = .wdProtectionRegister 0b1001 ∧
    decodeWord 0b0000_0000_11000000#16 = .wdLoadStatus ∧ decodeWord 0b0000_0000_11010000#16 = .wdWait ∧
    decodeWord 0b0000_0000_11011000#16 = .wdExit ∧
    decodeWord 0b0000_0000_1110_01_00#16 = .wdResetInhibits false true ∧
    decodeWord 0b0000_0000_1111_11_00#16 = .wdSetInhibits true true := by
  decide

/-- The effective addresses that no word of its own names (43_direct_control.md R210, R221, R222). -/
theorem test_decode_addresses :
    decodeWd 0b0001_0001_0000_0101#16 = some (.interruptControl001 5) ∧
    decodeWd 0b0001_0010_0000_1100#16 = some (.interruptControl010 12) ∧
    decodeWd 0b0001_0011_0000_0000#16 = some (.interruptControl011 0) ∧
    decodeWd 0b0001_0100_0000_0110#16 = some (.interruptControl100 6) ∧
    decodeWd 0b0001_0101_0000_0111#16 = some (.interruptControl101 7) ∧
    decodeWd 0b0001_0110_0000_1000#16 = some (.interruptControl110 8) ∧
    decodeWd 0b0001_0111_0000_1001#16 = some (.interruptControl111 9) ∧
    decodeWd 0b0000_0001_0000_0000#16 = some .watchdogDisable ∧
    decodeWd 0b0000_0010_0000_0000#16 = some .watchdogEnable ∧
    decodeWd 0b0000_0011_0000_0000#16 = some .watchdogResetTimer ∧
    decodeWd 0b0010_0000_0000_0000#16 = some (.directIO 0x2000) ∧
    decodeRd 0b1111_0000_1010_0101#16 = some (.directIO 0xF0A5) ∧
    decodeRd 0b0001_0010_0000_0000#16 = none ∧ decodeWd 0b0001_0000_0000_0000#16 = none := by
  decide

theorem test_table_word : decodeTableWord 16 0x74F0 = some (.rcpy { dr := .a, inv := false, sr := .z }) := by decide

/-! ### Small states -/

/-- Executing the instruction at 0200, with P at 0201, every register zero and the protection system off. -/
def base : State := { State.reset with p := 0x0201, regH := 0x0200, pp := false }

/-- A state with a word stored. -/
def holding (s : State) (addr v : Word) : State := s.writeWord addr v

/-- Address 0040, direct. -/
def at40 : MemRef := { r := false, i := false, x := false, s := false, d := 0x40 }

/-- Address 0040, indirect. -/
def via40 : MemRef := { r := false, i := true, x := false, s := false, d := 0x40 }

/-- The fields `f` of the next state, if there is one. -/
def after {α : Type} (r : Result) (f : State → α) : Option α :=
  match r with
  | .next t => some (f t)
  | .fault _ => none
  | .refused _ => none

/-- The refusal a result is, if it is one. -/
def refusalOf (r : Result) : Option Refusal :=
  match r with
  | .refused e => some e
  | .next _ => none
  | .fault _ => none

/-- Copy operands: destination and source, not inverted. -/
def ops (dr sr : Gpr) : CopyOperands := { dr := dr, inv := false, sr := sr }

/-- A device of the tests, on channel 5. -/
def dev5 : Device where
  number := 0x05
  condition := .ready
  controller := .ready
  automatic := true
  unusualEnd := false
  statusBit7 := false
  pending := false
  phase := .quiet
  interpretsStop := false
  tdvStatus := 0x22
  tdvCondition := true
  aioStatus := 0x33
  aioUnusual := true
  lastByte := 0

/-- The device after a start. -/
def busy5 : Device := { dev5 with phase := .wantsOrder, condition := .busy, controller := .busy }

/-- The device is installed and named in A. -/
def withDev : State := { base with devices := [dev5], a := 0x0005 }

/-- Protection operative, 0000-03FF protected, executing at 0200 in protected memory. -/
def guarded : State :=
  { base with pp := true, pr := base.pr.set 0 0xF000, panel := { resetPanel with protect := true } }

/-- PARITY ERROR in HALT. -/
def haltPanel : Panel := { resetPanel with parityIgnore := false, parityHalt := true }

/-- PARITY ERROR in INTERRUPT. -/
def interruptPanel : Panel := { resetPanel with parityIgnore := false }

/-- The same system, executing at 2000 in unprotected memory. -/
def unguarded : State := { guarded with pp := false, p := 0x2001, regH := 0x2000 }

/-! ### Effective addresses (95_test_vectors.md part 2) -/

theorem test_ea_indirect_indexed :
    (holding { base with x1 := 0x0010, x2 := 0x0100 } 0x0130 0x5000).effectiveAddress
      { r := false, i := true, x := true, s := true, d := 0x30 } = .ok 0x5010 := by
  decide

theorem test_ea_self_relative :
    { base with x1 := 0x0010 }.effectiveAddress { r := true, i := false, x := true, s := true, d := 0xF0 }
      = .ok 0x0200 := by
  decide

/-! ### Instructions (95_test_vectors.md parts 3 to 8) -/

theorem test_lda : after (exec (.lda at40) (holding { base with a := 0x1111 } 0x0040 0xBEEF)) (·.a) = some 0xBEEF := by
  decide

theorem test_sta : after (exec (.sta at40) { base with a := 0xCAFE }) (fun t => (t.readWord 0x0040, t.a))
    = some (0xCAFE, 0xCAFE) := by
  decide

theorem test_ldx : after (exec (.ldx at40) (holding base 0x0040 0x1234)) (fun t => (t.x1, t.p))
    = some (0x1234, 0x0201) := by
  decide

theorem test_and : after (exec (.and at40) (holding { base with a := 0xF0F0 } 0x0040 0x3C3C)) (·.a)
    = some 0x3030 := by
  decide

theorem test_add : after (exec (.add at40) (holding { base with a := 0x8000 } 0x0040 0xFFFF))
    (fun t => (t.a, t.o, t.c)) = some (0x7FFF, true, true) := by
  decide

theorem test_sub : after (exec (.sub at40) (holding base 0x0040 0x8000)) (fun t => (t.a, t.o, t.c))
    = some (0x8000, true, false) := by
  decide

theorem test_sub_zero : after (exec (.sub at40) base) (fun t => (t.a, t.o, t.c)) = some (0x0000, false, true) := by
  decide

theorem test_mul : after (exec (.mul at40) (holding { base with e := 0x5555, a := 0xFF9C, o := true } 0x0040 0x012C))
    (fun t => (t.e, t.a, t.o, t.c)) = some (0xFFFF, 0x8AD0, true, true) := by
  decide

theorem test_mul_absent : after (exec (.mul at40)
      { base with cfg := { Config.full with hasMulDiv := false }, a := 3, levels := base.levels.set 8 ⟨.armed, true⟩ })
    (fun t => (t.p, t.a, (t.level multiplyLevel).state)) = some (0x0200, 3, .waiting) := by
  decide

theorem test_div : after (exec (.div at40) (holding { base with e := 0xFFFF, a := 0xFFF9 } 0x0040 0x0002))
    (fun t => (t.e, t.a, t.o, t.c)) = some (0xFFFF, 0xFFFD, false, true) := by
  decide

theorem test_div_overflow : after (exec (.div at40) (holding { base with e := 0xC000 } 0x0040 0x8000))
    (fun t => (t.e, t.a, t.o, t.c)) = some (0xC000, 0x0000, true, true) := by
  decide

theorem test_im : after (exec (.im at40) (holding { base with a := 0x1111 } 0x0040 0x7FFF))
    (fun t => (t.readWord 0x0040, t.a, t.o, t.c)) = some (0x8000, 0x1111, true, false) := by
  decide

theorem test_b : after (exec (.b via40) (holding base 0x0040 0x1234)) (·.p) = some 0x1234 := by decide

theorem test_cp : after (exec (.cp at40) (holding { base with a := 0x8000, c := true } 0x0040 0x7FFF))
    (fun t => (t.a, t.o, t.c)) = some (0x8000, false, false) := by
  decide

theorem test_shift_left : after (exec (.shift { at40 with d := 0x22 }) { base with a := 0xEF43, o := true })
    (fun t => (t.a, t.o, t.c)) = some (0xBD0C, false, false) := by
  decide

theorem test_shift_double_circular : after (exec (.shift { at40 with d := 0xE4 }) { base with e := 0x1234, a := 0x5678 })
    (fun t => (t.e, t.a, t.o, t.c)) = some (0x2345, 0x6781, false, true) := by
  decide

/-- 95_test_vectors.md S9, with level X'107' (number 11) active. -/
theorem test_exit_form : after (exec (.ldxExitForm via40)
      (holding (holding (holding
        { guarded with exitCondition := true, x1 := 0x7777, levels := guarded.levels.set 11 ⟨.active, true⟩ }
        0x0040 0x0300) 0x0300 0xFFB3) 0x0301 0x0456))
    (fun t => ((t.pp, t.ii, t.ei, t.o, t.c), t.p, t.x1, t.exitCondition, (t.level panelLevel).state))
      = some ((true, true, true, true, true), 0x0456, 0x7777, false, .armed) := by
  decide +kernel

theorem test_bno : after (exec (.bno 0x1F0) base) (·.p) = some 0x01F0 := by decide
theorem test_bnc : after (exec (.bnc 0x010) { base with c := true }) (·.p) = some 0x0201 := by decide
theorem test_baz : after (exec (.baz 0x010) base) (·.p) = some 0x0210 := by decide
theorem test_bix : after (exec (.bix 0x010) { base with x1 := 0xFFFF }) (fun t => (t.p, t.x1)) = some (0x0201, 0) := by
  decide
theorem test_bxno : after (exec (.bxno 0x010) { base with o := true, x1 := 5 }) (fun t => (t.p, t.x1))
    = some (0x0201, 5) := by
  decide
theorem test_bxnc : after (exec (.bxnc 0x010) { base with x1 := 5 }) (fun t => (t.p, t.x1)) = some (0x0210, 6) := by
  decide
theorem test_ben : after (exec (.ben 0x010) { base with e := 0x8000 }) (·.p) = some 0x0210 := by decide
theorem test_ban : after (exec (.ban 0x010) { base with a := 0x7FFF }) (·.p) = some 0x0201 := by decide

theorem test_copy : after (exec (.copy { op := .add, ac := true, ai := true, cd := false, operands := ops .a .t })
    { base with a := 1, t := 1 }) (·.a) = some 3 := by
  decide

/-- The negate example of 42_copy.md R183: X'7DFF' on 8000. -/
theorem test_copy_negate : after (exec (decodeWord 0x7DFF#16) { base with a := 0x8000 }) (fun t => (t.a, t.o, t.c))
    = some (0x8000, true, false) := by
  decide

theorem test_rand : after (exec (.rand (ops .a .t)) { base with a := 0x00FF, t := 0x0F0F }) (·.a) = some 0x000F := by
  decide
theorem test_randi : after (exec (.randi (ops .a .t)) { base with a := 0x00FF, t := 0x0F0F }) (·.a) = some 0x0010 := by
  decide
theorem test_randc : after (exec (.randc (ops .a .t)) { base with a := 0x00FF, t := 0x0F0F }) (·.a) = some 0x000F := by
  decide
theorem test_ror : after (exec (.ror (ops .a .t)) { base with a := 0x00F0, t := 0x0F0F }) (·.a) = some 0x0FFF := by
  decide
theorem test_rcpy : after (exec (.rcpy (ops .p .l)) { base with l := 0x0456 }) (·.p) = some 0x0456 := by decide
theorem test_rori : after (exec (.rori (ops .a .t)) { base with a := 0x00F0, t := 0x0F0F }) (·.a) = some 0x1000 := by
  decide
theorem test_rcpyi : after (exec (decodeWord 0x75A1#16) base) (·.l) = some 0x0202 := by decide
theorem test_rorc : after (exec (.rorc (ops .a .t)) { base with a := 0x00F0, t := 0x0F0F, c := true }) (·.a)
    = some 0x1000 := by
  decide
theorem test_rcpyc : after (exec (.rcpyc (ops .a .e)) { base with e := 0xFFFF, c := true }) (fun t => (t.a, t.c))
    = some (0, true) := by
  decide
theorem test_reor : after (exec (.reor (ops .a .t)) { base with a := 0x00FF, t := 0x0F0F }) (·.a) = some 0x0FF0 := by
  decide
theorem test_reori : after (exec (.reori (ops .a .t)) { base with a := 0x00FF, t := 0x0F0F }) (·.a) = some 0x0FF1 := by
  decide
theorem test_reorc : after (exec (.reorc (ops .a .t)) { base with a := 0x00FF, t := 0x0F0F, c := true }) (·.a)
    = some 0x0FF1 := by
  decide
theorem test_radd : after (exec (.radd (ops .p .a)) { base with a := 3 }) (fun t => (t.p, t.o, t.c))
    = some (0x0204, false, false) := by
  decide
theorem test_raddi : after (exec (.raddi (ops .x1 .z)) { base with x1 := 0xFFFF }) (fun t => (t.x1, t.o, t.c))
    = some (0, false, true) := by
  decide
theorem test_raddc : after (exec (.raddc (ops .a .t)) { base with a := 0x7FFF, c := true }) (fun t => (t.a, t.o, t.c))
    = some (0x8000, true, false) := by
  decide

theorem test_sio : after (exec .sio withDev) (fun t => (t.a, t.o, t.c, (t.device 0x05).map (·.condition)))
    = some (0x1005, false, false, some .busy) := by
  decide
theorem test_sio_absent : after (exec .sio { base with a := 0x0006 }) (fun t => (t.a, t.o, t.c))
    = some (0x0006, true, true) := by
  decide
theorem test_tio : after (exec .tio { withDev with devices := [busy5] })
    (fun t => (t.a, t.o, t.c)) = some (0x7605, false, true) := by
  decide
theorem test_tdv : after (exec .tdv withDev) (fun t => (t.a, t.o, t.c)) = some (0x2205, false, true) := by decide
theorem test_hio : after (exec .hio { withDev with devices := [{ busy5 with pending := true }] })
    (fun t => (t.o, t.c, (t.device 0x05).map fun d => (d.condition, d.pending)))
      = some (false, true, some (.ready, false)) := by
  decide
theorem test_aio : after (exec .aio { withDev with devices := [{ dev5 with pending := true }] })
    (fun t => (t.a, t.o, t.c, (t.device 0x05).map (·.pending))) = some (0x3305, false, true, some false) := by
  decide

theorem test_rd : after (exec (.rd via40) (holding { base with e := 0x1234 } 0x0040 0x0006)) (·.a) = some 0x1234 := by
  decide
theorem test_rd_undefined : refusalOf (exec (.rd via40) (holding base 0x0040 0x1200)) = some .interruptModeRead := by
  decide
theorem test_wd : after (exec (.wd via40) (holding { base with a := 0x00FF } 0x0040 0x0004)) (·.x1) = some 0x00FF := by
  decide
theorem test_wd_undefined : refusalOf (exec (.wd via40) (holding base 0x0040 0x1000)) = some .undefinedInterruptCode := by
  decide
theorem test_rd_register : after (exec (.rdRegister 1) base) (·.a) = some 0x0201 := by decide
theorem test_rd_switches : after (exec .rdDataSwitches { base with panel := { resetPanel with data := 0xA5A5 } }) (·.a)
    = some 0xA5A5 := by
  decide
theorem test_rd_status : after (exec .rdSaveStatus { base with ii := true, ei := true, o := true, c := true }) (·.a)
    = some 0x0033 := by
  decide
theorem test_rd_status_reset : after (exec (.rdSaveStatusResetInhibits true false)
    { base with ii := true, ei := true, c := true }) (fun t => (t.a, t.ii, t.ei)) = some (0x0031, false, true) := by
  decide
theorem test_rd_status_set : after (exec (.rdSaveStatusSetInhibits true true) { base with o := true })
    (fun t => (t.a, t.ii, t.ei)) = some (0x0002, true, true) := by
  decide
theorem test_rd_direct : after (exec (.rdDirectIO 0x2000) { base with dioReplies := [⟨0x5A5A, true, false⟩] })
    (fun t => (t.a, t.o, t.c, t.dio)) = some (0x5A5A, true, false, none) := by
  decide
theorem test_rd_direct_held : after (exec (.rdDirectIO 0x2000) { base with a := 0x1234 })
    (fun t => (t.a, t.dio)) = some (0x1234, some (.read 0x2000)) := by
  decide
theorem test_wd_register : after (exec (.wdRegister 18) { base with a := 0x0400 }) (·.channelEven 5)
    = some 0x0400 := by
  decide
theorem test_wd_bit0 : after (exec (.wdTestAndResetBit0 7) { base with a := 0x8001 }) (fun t => (t.a, t.o, t.c))
    = some (0x0001, true, false) := by
  decide
theorem test_wd_protection : after (exec (.wdProtectionRegister 1) { guarded with a := 0xF000 })
    (fun t => (t.protectedAddress 0x13FF, t.protectedAddress 0x1400)) = some (true, false) := by
  decide +kernel
theorem test_wd_status : after (exec .wdLoadStatus { guarded with a := 0xFFB3 })
    (fun t => (t.pp, t.ii, t.ei, t.o, t.c)) = some (true, true, true, true, true) := by
  decide +kernel
theorem test_wd_wait : after (exec .wdWait base) (fun t => (t.wff, t.p)) = some (true, 0x0201) := by decide
theorem test_wd_exit : after (exec .wdExit base) (·.exitCondition) = some true := by decide
theorem test_wd_reset_inhibits : after (exec (.wdResetInhibits false true) { base with ii := true, ei := true })
    (fun t => (t.ii, t.ei)) = some (true, false) := by
  decide
theorem test_wd_set_inhibits : after (exec (.wdSetInhibits true false) base) (fun t => (t.ii, t.ei))
    = some (true, false) := by
  decide
theorem test_wd_001 : after (exec (.wdInterruptControl001 0)
      { base with a := 0x0200, levels := base.levels.set 10 ⟨.waiting, true⟩ }) (·.level ioLevel)
    = some ⟨.disarmed, true⟩ := by
  decide +kernel
theorem test_wd_010 : after (exec (.wdInterruptControl010 0) { base with a := 0x1010 })
    (fun t => (t.level 3, t.level 15, t.level 10)) = some (⟨.armed, true⟩, ⟨.armed, true⟩, ⟨.disarmed, false⟩) := by
  decide +kernel
theorem test_wd_011 : after (exec (.wdInterruptControl011 0) { base with a := 0x0200 }) (·.level ioLevel)
    = some ⟨.armed, false⟩ := by
  decide +kernel
theorem test_wd_100 : after (exec (.wdInterruptControl100 0) { base with a := 0x0200 }) (·.level ioLevel)
    = some ⟨.disarmed, true⟩ := by
  decide +kernel
theorem test_wd_101 : after (exec (.wdInterruptControl101 0)
      { base with a := 0x0200, levels := base.levels.set 10 ⟨.armed, true⟩ }) (·.level ioLevel)
    = some ⟨.armed, false⟩ := by
  decide +kernel
theorem test_wd_110 : after (exec (.wdInterruptControl110 5) { base with a := 0x8001 })
    (fun t => ((t.level 20).enabled, (t.level 21).enabled, (t.level 35).enabled)) = some (true, false, true) := by
  decide +kernel
theorem test_wd_111 : after (exec (.wdInterruptControl111 0)
      { base with a := 0x0100, levels := base.levels.set 11 ⟨.armed, true⟩ })
    (fun t => ((t.level panelLevel).state, (t.level ioLevel).state)) = some (.waiting, .disarmed) := by
  decide +kernel
theorem test_wd_watchdog_enable : after (exec .wdWatchdogEnable base) (·.wdEnabled) = some true := by decide
theorem test_wd_watchdog_disable : after (exec .wdWatchdogDisable { base with wdEnabled := true }) (·.wdEnabled)
    = some false := by
  decide
theorem test_wd_watchdog_timer : after (exec .wdWatchdogResetTimer { base with wdEnabled := true })
    (fun t => (t.wdEnabled, t.p)) = some (true, 0x0201) := by
  decide
theorem test_wd_direct : after (exec (.wdDirectIO 0xF0A5) { base with a := 0x1234 })
    (fun t => (t.a, t.dio)) = some (0x1234, some (.write 0xF0A5 0x1234)) := by
  decide

/-! ### The machine -/

/-- The override levels and the counters stand before the groups, in Table 2's order (60_exceptions.md R285). -/
theorem test_chain : (chain Config.full).take 12 = [4, 5, 0, 1, 2, 3, 6, 7, 10, 11, 12, 13] := by decide

/-- 95_test_vectors.md S8: entry to X'107'. -/
theorem test_entry :
    (fun t => (t.readWord 0x0300, t.readWord 0x0301, t.p, (t.level panelLevel).state))
      ((holding { base with p := 0x0456, ei := true, o := true } 0x0107 0x0300).enter panelLevel)
        = (0x0012, 0x0456, 0x0302, .active) := by
  decide +kernel

/-- 95_test_vectors.md S11, rule 1: WD at 2000 in unprotected memory. -/
theorem test_refused_privileged : after (exec .wdWait unguarded)
    (fun t => (t.wff, t.p, (t.level protectionLevel).state)) = some (false, 0x2000, .waiting) := by
  decide +kernel

/-- 95_test_vectors.md S12: a nonexistent operand in HALT. -/
theorem test_parity_halt : after (exec (.lda via40)
      (holding { base with cfg := { Config.full with memBanks := 1 }, panel := haltPanel } 0x0040 0x2000))
    (fun t => (t.a, t.p, t.parityHalt, t.parityIndicator)) = some (0, 0x0200, true, true) := by
  decide

/-- The first step after reset runs the word placed at P. -/
theorem test_first_step : after (step (State.reset.withFetchWord 16 0x61F0)) (fun t => (t.p, t.regH, t.regD))
    = some (0xFFF0, 0x0000, 0x61F0) := by
  decide +kernel

/-- A device interrupt raised in IDLE has made its level wait when AIO is stepped (44_io.md R240). -/
theorem test_device_interrupt : after
      (({ withDev with regD := 0x1050, panel := { resetPanel with compute := .idle } }.setLevel ioLevel ⟨.armed, true⟩).applyAll
        [.deviceInterrupt 0x05, .panel .step])
    (fun t => (t.a, (t.level ioLevel).state)) = some (0x3305, .waiting) := by
  decide +kernel

/-- The order byte of a table of two data bytes and the order stands in the right half of its first word, and the order
Read Backward makes the following bytes go to memory (44_io.md R234, R238, R239). -/
theorem test_order_byte : after
      (((holding { withDev with devices := [busy5] } 0x0400 0x010C).setChannelEven 5 0x0400 |>.setChannelOdd 5 0x2003).service
        0x05 0 false)
    (fun t => ((t.device 0x05).map (·.phase), (t.device 0x05).map Device.direction, t.channelEven 5, t.channelOdd 5))
      = some (some (.underOrder 0x0C), some .toMemory, 0x0401, 0x2002) := by
  decide

/-- A device in the manual mode begins to operate only in the automatic mode (44_io.md R242). -/
theorem test_manual_device : after
      ({ withDev with devices := [{ busy5 with automatic := false }], ch := base.ch.set 11 2 }.service 0x05 0 false)
      (fun t => (t.device 0x05).map (·.phase)) = some (some .wantsOrder) := by
  decide

/-- The status of a controller's unit follows the other unit (44_io.md R247). -/
theorem test_shared_controller : after (exec .sio
      { withDev with devices := [{ dev5 with number := 0x81 }, { dev5 with number := 0x80 }], a := 0x0080 })
    (fun t => t.devices.map (·.controller)) = some [.busy, .busy] := by
  decide

/-- The interrupt of a response failure comes after the next instruction (60_exceptions.md R321). -/
theorem test_response_failure : after (step ({ State.reset with
      cfg := { Config.full with dioFailureLevel := some 16 }, dioFailure := true
      levels := State.reset.levels.set 16 ⟨.armed, true⟩ }))
    (fun t => (t.p, t.dioFailure, (t.level 16).state)) = some (1, false, .waiting) := by
  decide +kernel

/-- Steps 2 to 6 of the loading procedure after a wait, with PARITY ERROR in INTERRUPT and a nonexistent location at P:
SIO is set up as the first instruction in RUN (70_reset_and_hazards.md R344, R345). -/
theorem test_loading : after
      ({ base with wff := true, p := 0x1000, panel := interruptPanel, cfg := { Config.full with memBanks := 0 } }.applyAll
        [.panel (.compute .idle), .panel .reset, .panel .load, .panel (.compute .run)])
    (fun t => (t.regD, t.started, t.wff, t.loadCondition)) = some (0x1041, true, false, true) := by
  decide +kernel

/-- No event makes a device busy or tells of an unusual end (44_io.md R247). -/
theorem test_device_change : after
      (withDev.apply (.deviceChange { dev5 with condition := .busy, controller := .busy, unusualEnd := true }))
    (fun t => t.devices) = some [dev5] := by
  decide

/-- No other port reaches integral memory (20_memory.md R79). -/
theorem test_integral : after (base.apply (.portWrite 0x3FFF 1)) (·.readWord 0x3FFF) = some 0 ∧
    after (base.apply (.portWrite 0x4000 1)) (·.readWord 0x4000) = some 1 := by
  decide

/-! ### Witnesses: for each obligation with hypotheses, a state and operands that meet them -/

theorem witness_DecodeUndoesEncode :
    (Instr.add ref1).wellFormed = true ∧ encode (.add ref1) = some 0xAAA5 := by
  decide

theorem witness_DirectControlAddressesAgree :
    (RdFunction.instr (.directIO 0x2000)).wellFormed = true ∧ decodeRd 0x2000 = some (.directIO 0x2000) ∧
    (WdFunction.instr (.interruptControl111 15)).wellFormed = true ∧
    decodeWd 0x170F = some (.interruptControl111 15) := by
  decide

theorem witness_EffectiveAddressInThreeSteps :
    at40.i = false ∧ via40.i = true ∧
    (holding base 0x0040 0x1234).checkedRead ((holding base 0x0040 0x1234).referenceAddress via40) = .ok 0x1234 := by
  decide

/-- The hypotheses of LoadsAndLogicalProduct, AddAddsWithCarryAndOverflow, SubtractSetsCarryWithoutBorrow and
CompareRecordsTheSignedOrder. -/
theorem witness_LoadsAndLogicalProduct :
    base.effectiveAddress at40 = .ok 0x0040 ∧ (holding base 0x0040 0x8000).checkedRead 0x0040 = .ok 0x8000 ∧
    (holding base 0x0040 0x8000).effectiveAddress at40 = .ok 0x0040 ∧
    (holding base 0x0040 0x8000).admits .plain = true ∧ (holding base 0x0040 0x8000).exitCondition = false := by
  decide

theorem witness_AddAddsWithCarryAndOverflow :
    (holding base 0x0040 0x8000).effectiveAddress at40 = .ok 0x0040 ∧
    (holding base 0x0040 0x8000).checkedRead 0x0040 = .ok 0x8000 ∧
    (holding base 0x0040 0x8000).admits .plain = true := by
  decide

theorem witness_SubtractSetsCarryWithoutBorrow :
    (holding base 0x0040 0xFFFF).effectiveAddress at40 = .ok 0x0040 ∧
    (holding base 0x0040 0xFFFF).checkedRead 0x0040 = .ok 0xFFFF ∧
    (holding base 0x0040 0xFFFF).admits .plain = true := by
  decide

theorem witness_CompareRecordsTheSignedOrder :
    (holding base 0x0040 0x7FFF).effectiveAddress at40 = .ok 0x0040 ∧
    (holding base 0x0040 0x7FFF).checkedRead 0x0040 = .ok 0x7FFF ∧
    (holding base 0x0040 0x7FFF).admits .plain = true := by
  decide

/-- An existing location, and the first nonexistent one of a machine with the smallest memory. -/
theorem witness_StoreAccumulatorStores :
    base.mem.wf = true ∧ base.effectiveAddress at40 = .ok 0x0040 ∧ base.admits (.store 0x0040) = true ∧
    base.hasLocation 0x0040 = true ∧
    (holding { base with cfg := { Config.full with memBanks := 0 } } 0x0040 0x1000).mem.wf = true ∧
    (holding { base with cfg := { Config.full with memBanks := 0 } } 0x0040 0x1000).effectiveAddress via40 = .ok 0x1000 ∧
    (holding { base with cfg := { Config.full with memBanks := 0 } } 0x0040 0x1000).admits (.store 0x1000) = true ∧
    (holding { base with cfg := { Config.full with memBanks := 0 } } 0x0040 0x1000).hasLocation 0x1000 = false := by
  decide

theorem witness_ExitFormRestoresTheEnvironment :
    { base with exitCondition := true }.exitCondition = true ∧
    { base with exitCondition := true }.effectiveAddress at40 = .ok 0x0040 ∧
    { base with exitCondition := true }.checkedRead 0x0040 = .ok 0 ∧
    { base with exitCondition := true }.checkedRead (0x0040 + 1) = .ok 0 ∧
    { base with exitCondition := true }.admits .plain = true := by
  decide

theorem witness_MultiplyGivesTheExactProduct :
    (holding base 0x0040 0x8000).effectiveAddress at40 = .ok 0x0040 ∧
    (holding base 0x0040 0x8000).checkedRead 0x0040 = .ok 0x8000 ∧
    (holding base 0x0040 0x8000).admits .plain = true ∧ (holding base 0x0040 0x8000).cfg.hasMulDiv = true := by
  decide

/-- A division with a remainder, -7 by 2; the largest quotient, 32767 by 1; the zero divisor. -/
theorem witness_DivideTruncatesOrOverflows :
    (holding base 0x0040 0x0002).effectiveAddress at40 = .ok 0x0040 ∧
    (holding base 0x0040 0x0002).checkedRead 0x0040 = .ok 0x0002 ∧
    (holding base 0x0040 0x0002).admits .plain = true ∧ (holding base 0x0040 0x0002).cfg.hasMulDiv = true ∧
    (-7 : Int) = (0xFFFF#16 ++ 0xFFF9#16 : BitVec 32).toInt ∧
    ((-7 : Int) = -3 * (0x0002#16).toInt + -1 ∧ (-1 : Int).natAbs < (0x0002#16).toInt.natAbs ∧ ((-1 : Int) < 0 ↔ (-7 : Int) < 0)) ∧
    ((32767 : Int) = 32767 * (0x0001#16).toInt + 0 ∧ (0 : Int).natAbs < (0x0001#16).toInt.natAbs) ∧
    (0x0000#16).toInt = 0 := by
  decide

theorem witness_IncrementMemoryIncrements :
    (holding base 0x0040 0xFFFF).mem.wf = true ∧ (holding base 0x0040 0xFFFF).effectiveAddress at40 = .ok 0x0040 ∧
    (holding base 0x0040 0xFFFF).checkedRead 0x0040 = .ok 0xFFFF ∧
    (holding base 0x0040 0xFFFF).admits (.store 0x0040) = true ∧ (holding base 0x0040 0xFFFF).hasLocation 0x0040 = true ∧
    (holding { base with cfg := { Config.full with memBanks := 0 } } 0x0040 0x1000).effectiveAddress via40 = .ok 0x1000 ∧
    (holding { base with cfg := { Config.full with memBanks := 0 } } 0x0040 0x1000).hasLocation 0x1000 = false ∧
    (holding { base with cfg := { Config.full with memBanks := 0 } } 0x0040 0x1000).checkedRead 0x1000 = .ok 0 ∧
    (holding { base with cfg := { Config.full with memBanks := 0 } } 0x0040 0x1000).admits (.store 0x1000) = true := by
  decide

/-- The refusal clauses of StoreAccumulatorStores and IncrementMemoryIncrements: unprotected code, a protected word. -/
theorem witness_StoreAccumulatorStores_refused :
    unguarded.effectiveAddress at40 = .ok 0x0040 ∧ unguarded.operative = true ∧ unguarded.violationsInhibited = false ∧
    unguarded.protectedAddress unguarded.regH = false ∧ unguarded.protectedAddress 0x0040 = true := by
  decide +kernel

theorem witness_IncrementMemoryIncrements_refused :
    unguarded.effectiveAddress at40 = .ok 0x0040 ∧ unguarded.operative = true ∧ unguarded.violationsInhibited = false ∧
    unguarded.protectedAddress unguarded.regH = false ∧ unguarded.protectedAddress 0x0040 = true := by
  decide +kernel

theorem witness_MultiplyGivesTheExactProduct_exception :
    { base with cfg := { Config.full with hasMulDiv := false } }.effectiveAddress at40 = .ok 0x0040 ∧
    { base with cfg := { Config.full with hasMulDiv := false } }.admits .plain = true ∧
    { base with cfg := { Config.full with hasMulDiv := false } }.cfg.hasMulDiv = false := by
  decide

/-- Every kind of shift, with the counts 0 and 31: the specification bytes 00, 3F, 40, 7F, 80, BF, C0, FF. -/
theorem witness_ShiftsFollowTheSpecification :
    ∀ d ∈ [0x00#8, 0x3F#8, 0x40#8, 0x7F#8, 0x80#8, 0xBF#8, 0xC0#8, 0xFF#8],
      base.effectiveAddress { at40 with d := d } = .ok (0x00#8 ++ d) ∧ base.admits .plain = true := by
  decide

theorem witness_BranchesLoadTheProgramAddress :
    base.effectiveAddress at40 = .ok 0x0040 ∧ base.admits .plain = true := by
  decide

theorem witness_IndexBranchesCount : base.admits .plain = true ∧ guarded.admits .plain = true := by decide +kernel

theorem witness_LogicalCopies : base.admits .plain = true ∧ Gpr.a ≠ Gpr.z ∧ Gpr.t ≠ Gpr.a := by decide

theorem witness_AddingCopies : { base with c := true }.admits .plain = true ∧ { base with c := true }.c = true := by
  decide

theorem witness_EveryCopySettingFollowsTheFields : { base with c := true }.admits .plain = true := by decide

/-- In protected memory with the protection system operative, and the last register of the largest configuration. -/
theorem witness_ReadDirectReadsRegisters :
    guarded.admits .privileged = true ∧ 39 < 2 * ioChannels guarded.cfg := by
  decide +kernel

theorem witness_WriteDirectLoadsRegisters :
    guarded.admits .privileged = true ∧ 0 < 2 * ioChannels guarded.cfg ∧ 39 < 2 * ioChannels guarded.cfg := by
  decide +kernel

theorem witness_ReadDirectSavesStatus : guarded.admits .privileged = true ∧ base.admits .privileged = true := by decide +kernel

theorem witness_WriteDirectSetsStatus : guarded.admits .privileged = true ∧ base.admits .privileged = true := by decide +kernel

/-- Protection operative; installed and switched off; absent. -/
theorem witness_ProtectionRegistersLoad :
    guarded.admits .privileged = true ∧ guarded.operative = true ∧
    base.admits .privileged = true ∧ base.cfg.hasProtection = true ∧ base.operative = false ∧
    { base with cfg := { Config.full with hasProtection := false } }.admits .privileged = true ∧
    { base with cfg := { Config.full with hasProtection := false } }.cfg.hasProtection = false := by
  decide +kernel

theorem witness_InterruptControlActsOnSelectedLevels : base.admits .privileged = true := by decide

theorem witness_WatchdogCommandsComplete : base.admits .privileged = true ∧ base.cfg.hasWatchdog = true := by decide

theorem witness_DirectIoTransfers :
    base.admits .privileged = true ∧ base.cfg.hasDio = true ∧ base.dioReplies = [] ∧
    { base with dioReplies := [⟨0x5A5A, true, false⟩] }.admits .privileged = true ∧
    { base with dioReplies := [⟨0x5A5A, true, false⟩] }.dioReplies = ⟨0x5A5A, true, false⟩ :: [] := by
  decide

/-- A write held on the direct I/O connector. -/
def held : State := { base with dio := some (.write 0x2000 1) }

/-- Nothing comes; an acknowledgment comes; the timer's substitute comes, with the timer and without it. -/
theorem witness_HeldDirectIoWaitsForAcknowledgment :
    held.env = [] ∧ held.dio = some (.write 0x2000 1) ∧ held.running = true ∧ held.dioReplies = [] ∧
    { held with env := [[.dioReply ⟨0x5A5A, true, false⟩]] }.env = [Event.dioReply ⟨0x5A5A, true, false⟩] :: [] ∧
    { held with env := [[.dioReply ⟨0x5A5A, true, false⟩]] }.running = true ∧ held.cfg.hasWatchdog = true ∧
    { held with cfg := { Config.full with hasWatchdog := false } }.running = true ∧
    { held with cfg := { Config.full with hasWatchdog := false } }.cfg.hasWatchdog = false := by
  decide

theorem witness_DirectControlFollowsTheEffectiveAddress :
    (holding base 0x0040 0x0007).effectiveAddress via40 = .ok (0#13 ++ Gpr.a.bits) ∧
    (holding base 0x0040 0x0007).admits .privileged = true ∧ decodeRd 0x0007 = some (.register 7) ∧
    decodeWd 0x0007 = some (.register 7) := by
  decide

/-- With `ea` held at 0040, the reference through 0040 has `ea` as its effective address and is admitted. -/
def pointsTo (ea : Word) : Prop :=
  (holding base 0x0040 ea).effectiveAddress via40 = .ok ea ∧ (holding base 0x0040 ea).admits .privileged = true

/-- Each clause at the ends of its range. -/
theorem witness_UndefinedFunctionsRefused :
    pointsTo 0x1000 ∧ pointsTo 0x1FFF ∧ pointsTo 0x0100 ∧ pointsTo 0x0FFF ∧ pointsTo 0x0040 ∧ pointsTo 0x00FF ∧
    pointsTo 0x0090 ∧ pointsTo 0x0101 ∧ pointsTo 0x100F ∧ pointsTo 0x1010 ∧ pointsTo 0x1710 ∧ pointsTo 0x1800 :=
  ⟨by constructor <;> decide, by constructor <;> decide, by constructor <;> decide, by constructor <;> decide,
    by constructor <;> decide, by constructor <;> decide, by constructor <;> decide, by constructor <;> decide,
    by constructor <;> decide, by constructor <;> decide, by constructor <;> decide, by constructor <;> decide⟩

theorem witness_UndefinedFunctionsRefused_bytes :
    isRdFunctionByte 0x40 = false ∧ isRdFunctionByte 0xFF = false ∧ isWdFunctionByte 0x90 = false ∧
    isWdFunctionByte 0xFF = false ∧ 8 + 2 * ioChannels { Config.full with ioBlocks := 0 } ≤ (16#6).toNat ∧
    8 + 2 * ioChannels Config.full ≤ (48#6).toNat ∧
    { base with cfg := { Config.full with ioBlocks := 0 } }.admits .privileged = true := by
  decide

/-- No direct I/O, no Watchdog Timer, and a device on a channel without registers. -/
def sparse : State := { withDev with cfg := { Config.full with hasDio := false, hasWatchdog := false, ioBlocks := 0 } }

theorem witness_UndefinedFunctionsRefused_options :
    sparse.admits .privileged = true ∧ sparse.cfg.hasDio = false ∧ sparse.cfg.hasWatchdog = false ∧
    (holding sparse 0x0040 0x2000).effectiveAddress via40 = .ok 0x2000 ∧
    (holding sparse 0x0040 0x2000).admits .privileged = true ∧ sparse.a.extractLsb' 0 8 = 0x05#8 ∧
    sparse.device 0x05 = some dev5 ∧ ioChannels sparse.cfg ≤ channelOf 0x05 := by
  decide

/-- A device number whose channel is not installed and that no device has (log entry 13): the clause of
StartIoStartsAReadyDevice, TestInstructionsOnlyReport, HaltAndAcknowledge and LoadConditionStartsTheLoad. -/
def absent : State := { base with a := 0x0014 }

theorem witness_absent_device :
    absent.admits .privileged = true ∧ absent.loadCondition = false ∧ absent.a.extractLsb' 0 8 = 0x14#8 ∧
    absent.device 0x14 = none ∧ ioChannels absent.cfg ≤ channelOf 0x14 ∧
    { absent with loadCondition := true }.admits .privileged = true ∧
    { absent with loadCondition := true }.loadCondition = true := by
  decide

theorem witness_StartIoStartsAReadyDevice :
    withDev.admits .privileged = true ∧ withDev.loadCondition = false ∧ withDev.a.extractLsb' 0 8 = 0x05#8 ∧
    withDev.device 0x05 = some dev5 ∧ channelOf 0x05 < ioChannels withDev.cfg ∧ dev5.condition = .ready ∧
    dev5.controller = .ready ∧ dev5.pending = false ∧ { withDev with devices := [busy5] }.device 0x05 = some busy5 ∧
    busy5.condition ≠ .ready ∧ sameController 0x06 0x05 = false ∧ base.device 0x05 = none := by
  decide

theorem witness_TestInstructionsOnlyReport :
    withDev.admits .privileged = true ∧ withDev.a.extractLsb' 0 8 = 0x05#8 ∧ withDev.device 0x05 = some dev5 ∧
    channelOf 0x05 < ioChannels withDev.cfg ∧ base.device 0x05 = none := by
  decide

theorem witness_HaltAndAcknowledge :
    withDev.admits .privileged = true ∧ withDev.a.extractLsb' 0 8 = 0x05#8 ∧ withDev.device 0x05 = some dev5 ∧
    channelOf 0x05 < ioChannels withDev.cfg ∧ (∀ d ∈ withDev.devices, d.pending = false) ∧
    { withDev with devices := [dev5, { busy5 with pending := true }] }.devices
      = [dev5] ++ { busy5 with pending := true } :: [] ∧ base.device 0x05 = none := by
  decide

theorem witness_LoadConditionStartsTheLoad :
    { withDev with loadCondition := true }.admits .privileged = true ∧
    { withDev with loadCondition := true }.loadCondition = true ∧ withDev.a.extractLsb' 0 8 = 0x05#8 ∧
    { withDev with loadCondition := true }.device 0x05 = some dev5 ∧ channelOf 0x05 < ioChannels withDev.cfg ∧
    dev5.condition = .ready ∧ dev5.controller = .ready ∧ dev5.pending = false := by
  decide

/-- A busy device, and a number without a device on an installed channel. -/
theorem witness_LoadConditionStartsTheLoad_responses :
    { withDev with loadCondition := true, devices := [busy5] }.admits .privileged = true ∧
    { withDev with loadCondition := true, devices := [busy5] }.loadCondition = true ∧
    { withDev with loadCondition := true, devices := [busy5] }.device 0x05 = some busy5 ∧ busy5.condition ≠ .ready ∧
    { withDev with loadCondition := true, devices := [] }.admits .privileged = true ∧
    { withDev with loadCondition := true, devices := [] }.loadCondition = true ∧
    { withDev with loadCondition := true, devices := [] }.device 0x05 = none ∧
    channelOf 0x05 < ioChannels withDev.cfg ∧ sameController 0x06 0x05 = false := by
  decide

/-- Channel 5 has word address 0400 and a count of 2; the device reads (order X'02'). -/
def receiving : State :=
  (({ withDev with devices := [{ busy5 with phase := .underOrder 0x02 }] }.setChannelEven 5 0x0400).setChannelOdd 5 0x0002)

theorem witness_ServiceStoresOneInputByte :
    receiving.mem.wf = true ∧ receiving.cfg.iocd = {} ∧
    receiving.device 0x05 = some { busy5 with phase := .underOrder 0x02 } ∧ busy5.automatic = true ∧
    channelOf 0x05 < ioChannels receiving.cfg ∧ Device.direction { busy5 with phase := .underOrder 0x02 } = .toMemory ∧
    receiving.channelEven (channelOf 0x05) = 0x0400 ∧ receiving.hasLocation 0x0400 = true ∧
    2 = (receiving.channelOdd (channelOf 0x05)).toNat % 0x2000 := by
  decide

/-- Channel 5 writes its last byte: count 1, without data chaining and with data chaining and the I flag. -/
def sending (odd : Word) : State :=
  (({ withDev with devices := [{ busy5 with phase := .underOrder 0x01 }] }.setChannelEven 5 0x0400).setChannelOdd 5 odd)

theorem witness_ExhaustedCountEndsOrChains :
    (sending 0x0001).mem.wf = true ∧ busy5.automatic = true ∧ (sending 0x0001).cfg.iocd = {} ∧ (sending 0x0001).device 0x05 = some { busy5 with phase := .underOrder 0x01 } ∧
    channelOf 0x05 < ioChannels (sending 0x0001).cfg ∧
    Device.direction { busy5 with phase := .underOrder 0x01 } = .toDevice ∧
    (sending 0x0001).channelEven (channelOf 0x05) = 0x0400 ∧ (sending 0x0001).channelOdd (channelOf 0x05) = 0x0001 ∧
    (0x0001#16).toNat % 0x2000 = 1 ∧ Word.bit 0x0001 1 = false ∧
    (sending 0x6001).device 0x05 = some { busy5 with phase := .underOrder 0x01 } ∧
    (sending 0x6001).channelOdd (channelOf 0x05) = 0x6001 ∧ (0x6001#16).toNat % 0x2000 = 1 ∧ Word.bit 0x6001 1 = true ∧
    Word.bit 0x6001 2 = true ∧ ((holding (sending 0x6001) 0x0402 0x0001).readWord (0x0400 + 2)).toNat % 0x2000 ≠ 0 := by
  decide

/-- A started device takes its order at an even count, and a writing device a byte at an odd one. -/
def starting : State :=
  (({ withDev with devices := [busy5] }.setChannelEven 5 0x0400).setChannelOdd 5 0x0002)

theorem witness_ServiceStoresOneInputByte_output :
    starting.mem.wf = true ∧ starting.cfg.iocd = {} ∧ starting.device 0x05 = some busy5 ∧ busy5.automatic = true ∧
    busy5.phase = .wantsOrder ∧ busy5.direction = .toDevice ∧ starting.channelEven (channelOf 0x05) = 0x0400 ∧
    2 = (starting.channelOdd (channelOf 0x05)).toNat % 0x2000 ∧
    (sending 0x6003).device 0x05 = some { busy5 with phase := .underOrder 0x01 } ∧
    Device.direction { busy5 with phase := .underOrder 0x01 } = .toDevice ∧
    3 = ((sending 0x6003).channelOdd (channelOf 0x05)).toNat % 0x2000 := by
  decide

/-- Channel 5 reads its last byte, and the IOCD after the table has a count. -/
def lastInput (odd : Word) : State := (holding receiving 0x0402 0x0001).setChannelOdd 5 odd

/-- Without data chaining, and with data chaining and the I flag. -/
theorem witness_ExhaustedCountEndsOrChains_input :
    (lastInput 0x0001).mem.wf = true ∧ (lastInput 0x0001).cfg.iocd = {} ∧
    (lastInput 0x0001).device 0x05 = some { busy5 with phase := .underOrder 0x02 } ∧
    Device.direction { busy5 with phase := .underOrder 0x02 } = .toMemory ∧
    (lastInput 0x0001).channelEven (channelOf 0x05) = 0x0400 ∧ (lastInput 0x0001).hasLocation 0x0400 = true ∧
    (lastInput 0x0001).channelOdd (channelOf 0x05) = 0x0001 ∧
    (lastInput 0x6001).mem.wf = true ∧
    (lastInput 0x6001).device 0x05 = some { busy5 with phase := .underOrder 0x02 } ∧
    (lastInput 0x6001).channelEven (channelOf 0x05) = 0x0400 ∧
    (lastInput 0x6001).channelOdd (channelOf 0x05) = 0x6001 ∧
    ((lastInput 0x6001).readWord (0x0400 + 2)).toNat % 0x2000 ≠ 0 := by
  decide

theorem witness_ChannelEndDeliversStatus :
    receiving.device 0x05 = some { busy5 with phase := .underOrder 0x02 } ∧ channelOf 0x05 < ioChannels receiving.cfg ∧
    Phase.underOrder 0x02 ≠ .quiet := by
  decide

theorem witness_SignalsAreRemembered :
    base.cfg.hasCounters = true ∧ base.cfg.hasPowerFailSafe = true ∧ takesExternalSignal 16 = true ∧
    installed base.cfg 16 = true ∧ takesExternalSignal 147 = true ∧ installed base.cfg 147 = true ∧
    base.powered = true ∧ { base with wdEnabled := true }.wdEnabled = true ∧ base.cfg.hangupLevel = none ∧
    { base with cfg := { Config.full with hangupLevel := some 16 } }.cfg.hangupLevel = some 16 ∧
    base.wdEnabled = false := by
  decide

/-- The control panel level waits, enabled, with its routine at 0300. -/
def signalledPanel : State :=
  (holding { base with p := 0x0456 } 0x0107 0x0300).setLevel panelLevel ⟨.waiting, true⟩

theorem witness_EntryStoresTheProgramStatus :
    signalledPanel.mem.wf = true ∧ signalledPanel.readWord (levelLocation panelLevel) = 0x0300 ∧
    signalledPanel.hasLocation 0x0300 = true ∧ signalledPanel.hasLocation (0x0300 + 1) = true := by
  decide

theorem witness_ExitUndoesEntry :
    signalledPanel.mem.wf = true ∧ signalledPanel.readWord (levelLocation panelLevel) = 0x0300 ∧
    signalledPanel.hasLocation 0x0300 = true ∧ signalledPanel.hasLocation (0x0300 + 1) = true ∧
    signalledPanel.claimant = some panelLevel ∧ (signalledPanel.level panelLevel).state ≠ .active ∧
    signalledPanel.pp = false ∧ signalledPanel.exitCondition = false := by
  decide +kernel

theorem witness_CountersCount :
    base.mem.wf = true ∧ (0x00FC#16) = levelLocation (counterLevel 0) ∧ (0x00FF#16) = levelLocation (counterLevel 3) := by
  decide

/-- Power on active; power on eligible; counter 4, below the two power levels, eligible. -/
theorem witness_RecognitionServesTheHighestLevel :
    base.exitCondition = false ∧ base.hold = false ∧
    chain base.cfg = [] ++ powerOnLevel :: (chain base.cfg).drop 1 ∧
    ((base.setLevel powerOnLevel ⟨.active, true⟩).level powerOnLevel).state = .active ∧
    (base.setLevel powerOnLevel ⟨.waiting, true⟩).eligible powerOnLevel = true ∧ isCounter powerOnLevel = false ∧
    chain base.cfg = [powerOnLevel, powerOffLevel] ++ counterLevel 0 :: (chain base.cfg).drop 3 ∧
    (∀ k ∈ [powerOnLevel, powerOffLevel], ((base.setLevel (counterLevel 0) ⟨.waiting, true⟩).level k).state ≠ .active ∧
      (base.setLevel (counterLevel 0) ⟨.waiting, true⟩).eligible k = false) ∧
    (base.setLevel (counterLevel 0) ⟨.waiting, true⟩).eligible (counterLevel 0) = true := by
  decide +kernel

/-- Two counters wait at once; nothing is active or eligible. -/
theorem witness_RecognitionServesTheHighestLevel_loop :
    (((base.setLevel (counterLevel 0) ⟨.waiting, true⟩).setLevel (counterLevel 1) ⟨.waiting, true⟩).count 0).claimant
      = some (counterLevel 1) ∧
    ∀ k ∈ chain base.cfg, (base.level k).state ≠ .active ∧ base.eligible k = false := by
  decide +kernel

theorem witness_InhibitsAndHolds :
    isIoGroup 10 = true ∧ isIoGroup 19 = true ∧ isExternal 20 = true ∧ isExternal 147 = true ∧ isCounter 0 = true ∧
    isOverride 9 = true ∧ { base with hold := true }.env = [] ∧ { base with hold := true }.dio = none ∧
    { base with hold := true }.running = true ∧ { base with hold := true }.parityHalt = false ∧
    { base with hold := true }.wff = false := by
  decide

theorem witness_PrivilegedInstructionsNeedProtectedMemory :
    isPrivileged (.rd at40) = true ∧ (∃ ea, unguarded.effectiveAddress at40 = .ok ea) ∧ unguarded.operative = true ∧
    unguarded.violationsInhibited = false ∧ unguarded.protectedAddress unguarded.regH = false :=
  ⟨rfl, ⟨0x0040, by decide⟩, by decide, by decide +kernel, by decide +kernel⟩

theorem witness_ProtectedMemoryIsEnteredByInterruptOnly :
    memRefOf (.bno 0) = none ∧ { guarded with pp := false }.operative = true ∧
    { guarded with pp := false }.violationsInhibited = false ∧ { guarded with pp := false }.pp = false ∧
    { guarded with pp := false }.protectedAddress { guarded with pp := false }.regH = true ∧
    { guarded with pp := false }.hold = false := by
  decide +kernel

theorem witness_UnprotectedStoresAreRefused :
    unguarded.effectiveAddress at40 = .ok 0x0040 ∧ unguarded.operative = true ∧ unguarded.violationsInhibited = false ∧
    unguarded.protectedAddress unguarded.regH = false ∧ unguarded.protectedAddress 0x0040 = true ∧
    unguarded.protectedAddress 0x03FF = true := by
  decide +kernel

theorem witness_UnprotectedProgramsAreConfined :
    unguarded.operative = true ∧ unguarded.violationsInhibited = false ∧
    unguarded.protectedAddress unguarded.regH = false ∧ unguarded.exitCondition = false ∧
    after (exec (.lda at40) unguarded) (·.p) = some 0x2001 ∧ unguarded.protectedAddress 0x0000 = true := by
  decide +kernel

theorem witness_MultiplyAndDivideExceptions :
    { base with cfg := { Config.full with hasMulDiv := false } }.effectiveAddress at40 = .ok 0x0040 ∧
    { base with cfg := { Config.full with hasMulDiv := false } }.admits .plain = true ∧
    { base with cfg := { Config.full with hasMulDiv := false } }.cfg.hasMulDiv = false := by
  decide

/-- A parity error at 0040, of an operand and of an indirect address, in HALT and in INTERRUPT with and without the
option. -/
def faulty (panel : Panel) : State := { base with parityFaults := [0x0040], panel := panel }

theorem witness_ParityErrorsAbort :
    memRefOf (.lda at40) = some at40 ∧ (faulty haltPanel).parityError 0x0040 = true ∧
    (faulty haltPanel).effectiveAddress via40 = .error 0x0040 ∧ (faulty haltPanel).effectiveAddress at40 = .ok 0x0040 ∧
    (faulty haltPanel).admits .plain = true ∧ (faulty haltPanel).admits (.store 0x0040) = true ∧
    (faulty haltPanel).cfg.hasMulDiv = true ∧ (faulty haltPanel).parityMode = .halt ∧
    (faulty interruptPanel).parityMode = .interrupt ∧ (faulty interruptPanel).cfg.hasMemParityInt = true ∧
    ((faulty interruptPanel).level memoryParityLevel).state ≠ .active ∧
    (faulty interruptPanel).effectiveAddress via40 = .error 0x0040 ∧
    { faulty interruptPanel with cfg := { Config.full with hasMemParityInt := false } }.parityMode = .interrupt ∧
    { faulty interruptPanel with cfg := { Config.full with hasMemParityInt := false } }.effectiveAddress via40
      = .error 0x0040 := by
  decide +kernel

/-- The exit form's second word. -/
theorem witness_ParityErrorsAbort_second_word :
    { faulty haltPanel with parityFaults := [0x0041], exitCondition := true }.effectiveAddress at40 = .ok 0x0040 ∧
    { faulty haltPanel with parityFaults := [0x0041], exitCondition := true }.admits .plain = true ∧
    { faulty haltPanel with parityFaults := [0x0041], exitCondition := true }.parityError 0x0040 = false ∧
    { faulty haltPanel with parityFaults := [0x0041], exitCondition := true }.parityError (0x0040 + 1) = true ∧
    { faulty haltPanel with parityFaults := [0x0041], exitCondition := true }.exitCondition = true := by
  decide

/-- P at the first nonexistent location of a machine with the smallest memory. -/
def beyond (panel : Panel) (option : Bool) : State :=
  { base with p := 0x1000, panel := panel, cfg := { Config.full with memBanks := 0, hasMemParityInt := option } }

/-- The fetch, in HALT and in INTERRUPT with and without the option. -/
theorem witness_ParityErrorsAbort_fetch :
    ∀ s ∈ [beyond haltPanel true, beyond interruptPanel true, beyond interruptPanel false],
      s.env = [] ∧ s.dio = none ∧ s.running = true ∧ s.parityHalt = false ∧ s.started = false ∧
      ({ s with parityFaults := [] }.ioSignal).recognize.wff = false ∧
      ({ s with parityFaults := [] }.ioSignal).recognize.hasLocation s.p = false ∧
      ({ s with parityFaults := [] }.ioSignal).recognize.p = s.p ∧
      (({ s with parityFaults := [] }.ioSignal).recognize.level memoryParityLevel).state ≠ .active := by
  decide +kernel

theorem witness_ParityErrorsAbort_ignored :
    base.parityMode = .ignore ∧ (beyond haltPanel true).parityMode = .halt ∧
    ((faulty interruptPanel).setLevel memoryParityLevel ⟨.active, true⟩).parityMode = .interrupt ∧
    (((faulty interruptPanel).setLevel memoryParityLevel ⟨.active, true⟩).level memoryParityLevel).state = .active := by
  decide +kernel

theorem witness_StoresChangeOneWord :
    after (exec (.lda at40) base) (·.p) = some 0x0201 ∧ after (exec (.sta at40) base) (·.p) = some 0x0201 ∧
    base.effectiveAddress at40 = .ok 0x0040 ∧ (0x7F ≠ 2 * (0x0040#16).toNat) ∧
    (0x82 ≠ 2 * (0x0040#16).toNat + 1) := by
  decide

theorem witness_MemoryReferenceFrames :
    after (exec (.lda at40) base) (·.p) = some 0x0201 ∧ after (exec (.ldx at40) base) (·.p) = some 0x0201 ∧
    after (exec (.ldxExitForm at40) base) (·.p) = some 0 ∧ after (exec (.div at40) base) (·.o) = some true ∧
    base.exitCondition = false := by
  decide +kernel

theorem witness_BranchAndCopyFrames :
    after (exec (.bno 0) base) (·.p) = some 0x0200 ∧ after (exec (.bix 0) base) (·.x1) = some 1 ∧
    after (exec (.rcpy (ops .a .p)) base) (·.a) = some 0x0201 := by
  decide

theorem witness_DirectControlFrames :
    after (exec (.rdRegister 0) base) (·.a) = some 0 ∧ after (exec .wdWait base) (·.wff) = some true ∧
    after (exec (.wdDirectIO 0x2000) base) (·.a) = some 0 ∧ after (exec .sio withDev) (·.a) = some 0x1005 ∧
    withDev.loadCondition = false := by
  decide

theorem witness_OnlyInterruptControlChangesLevels :
    after (exec .wdWait base) (·.p) = some 0x0201 ∧ base.exitCondition = false ∧
    after (exec .wdWait unguarded) (·.p) = some unguarded.regH := by
  decide +kernel

theorem witness_StepRunsTheDecodedInstruction :
    (State.reset.withFetchWord 16 0x8040).env = [] ∧ (State.reset.withFetchWord 16 0x8040).dio = none ∧
    (State.reset.withFetchWord 16 0x8040).running = true ∧ (State.reset.withFetchWord 16 0x8040).parityHalt = false ∧
    (State.reset.withFetchWord 16 0x8040).started = false ∧
    (State.reset.withFetchWord 16 0x8040).holdsProgramAddress = false ∧
    (State.reset.withFetchWord 16 0x8040).recognize.wff = false ∧
    (State.reset.withFetchWord 16 0x8040).recognize.checkedRead 0 = .ok 0x8040 ∧
    (State.reset.withFetchWord 16 0x8040).recognize.p = 0 ∧
    (State.reset.withFetchWord 16 0x8040).recognize.hasLocation 0 = true ∧
    decodeBytes [(State.reset.withFetchWord 16 0x8040).recognize.mem.byteAt 0,
      (State.reset.withFetchWord 16 0x8040).recognize.mem.byteAt 1] = .ok (.lda at40, []) ∧
    (State.reset.withFetchWord 16 0x8040).recognize.exitCondition = false := by
  decide +kernel

/-- COMPUTE in IDLE. -/
def idling : State := { base with panel := { resetPanel with compute := .idle } }

/-- The first instruction after COMPUTE goes to RUN, and STEP. -/
theorem witness_StepRunsTheDecodedInstruction_panel :
    { base with started := true, regD := 0x8040 }.env = [] ∧ { base with started := true, regD := 0x8040 }.dio = none ∧
    { base with started := true, regD := 0x8040 }.running = true ∧ base.parityHalt = false ∧ base.wff = false ∧
    base.holdsProgramAddress = false ∧ base.exitCondition = false ∧ idling.idle = true ∧ idling.dio = none ∧
    idling.parityHalt = false ∧ idling.wff = false ∧ idling.holdsProgramAddress = false ∧
    idling.exitCondition = false ∧ after (exec (decodeWord 0x8040) idling) (·.a) = some 0 ∧
    held.dio ≠ none ∧ base.dio = none := by
  decide

/-- POWER off, and a failure of the supply. -/
def switchedOff : State := { base with panel := { resetPanel with power := false } }
def failed : State := { base with supply := false }

theorem witness_WaitExecutesNothing :
    { base with wff := true }.env = [] ∧ { base with wff := true }.dio = none ∧ { base with wff := true }.running = true ∧
    { base with wff := true }.parityHalt = false ∧ { base with wff := true }.wff = true ∧
    { base with wff := true }.ioSignal.claimant = none ∧ idling.running = false ∧ idling.env = [] ∧ idling.dio = none ∧
    base.powered = true ∧ switchedOff.powered = false ∧ switchedOff.supply = true ∧ failed.powered = false ∧
    failed.panel.power = true ∧ failed.cfg.hasPowerFailSafe = true := by
  decide +kernel

/-- IDLE with every register selected; RUN with the key unlocked; not IDLE. -/
theorem witness_ResetInitializes :
    idling.idle = true ∧ idling.parityError idling.regS = false ∧ idling.parityError (idling.regS + 1) = false ∧
    (∀ r ∈ [PanelRegister.e, .a, .s, .d, .p, .l, .t, .x1, .x2],
      { idling with panel := { idling.panel with select := r } }.idle = true) ∧ idling.mem.wf = true ∧ idling.hasLocation idling.regS = true ∧ base.powered = true ∧
    base.panel.key = .unlocked ∧ base.panel.compute = .run ∧ base.parityError base.p = false ∧ base.idle = false := by
  decide

/-- The state after reset has the invariant, and the step from there is a next state. -/
theorem witness_EveryStepKeepsTheInvariant :
    State.reset.Inv ∧ after (step State.reset) (·.p) = some 1 :=
  ⟨{ mem_canonical := by decide
     mem_exists := by intro cell h; cases h
     counters_inactive := by decide +kernel
     override_armed := by decide +kernel
     uninstalled_quiet := by decide +kernel
     pp_option := by decide
     pr_option := by decide
     dio_option := by decide
     watchdog_option := by decide
     dio_unanswered := by decide
     idle_not_waiting := by decide
     dio_powered := by decide
     devices_distinct := by decide
     single_controller := by intro d h; cases h
     shared_controller := by intro d h; cases h }, by decide +kernel⟩

end Sys2Proof.Tests
end

section
/-! The effective address of the memory-reference format (30_encoding.md R93): one lemma for each of the three steps,
over the numbers the words stand for. -/

namespace Sys2Proof.Machine

open Sys2Proof

/-- As an unsigned number the nine-bit displacement is S times 256 plus `d`. -/
theorem MemRef.displacement_toNat (m : MemRef) :
    (MemRef.displacement m).toNat = m.s.toNat * 0x100 + m.d.toNat := by
  calc (MemRef.displacement m).toNat
      = (BitVec.ofBool m.s).toNat <<< 8 ||| m.d.toNat := BitVec.toNat_append _ _
    _ = (BitVec.ofBool m.s).toNat <<< 8 + m.d.toNat := (Nat.shiftLeft_add_eq_or_of_lt m.d.isLt _).symm
    _ = m.s.toNat * 0x100 + m.d.toNat := by rw [BitVec.toNat_ofBool, Nat.shiftLeft_eq]

/-- S is the sign of the nine-bit displacement. -/
theorem MemRef.displacement_msb (m : MemRef) : (MemRef.displacement m).msb = m.s := by
  rw [BitVec.msb_eq_decide, MemRef.displacement_toNat]
  cases m.s
  case false => simpa using m.d.isLt
  case true => simp

/-- Extended to a word, the displacement is `d` or, with S set, `d - 256` modulo 2^16. -/
theorem MemRef.displacement_signExtend_toNat (m : MemRef) :
    ((MemRef.displacement m).signExtend 16).toNat =
      if m.s then 0x10000 - 0x100 + m.d.toNat else m.d.toNat := by
  have hd := m.d.isLt
  rw [BitVec.toNat_signExtend, BitVec.toNat_setWidth, MemRef.displacement_msb, MemRef.displacement_toNat]
  cases m.s
  case false => simp only [Bool.toNat_false, Bool.false_eq_true, if_false]; omega
  case true => simp only [Bool.toNat_true, if_true]; omega

/-- Step 1: the reference address of each of the three ways of addressing, modulo 2^16. -/
theorem State.referenceAddress_toNat (s : State) (m : MemRef) :
    (s.referenceAddress m).toNat =
      (if m.r then s.regH.toNat + (if m.s then 0x10000 - 0x100 + m.d.toNat else m.d.toNat)
       else if m.s then m.d.toNat + s.x2.toNat else m.d.toNat) % 0x10000 := by
  have hd : (m.d.setWidth 16).toNat = m.d.toNat := BitVec.toNat_setWidth_of_le (by decide)
  unfold State.referenceAddress
  split
  case isTrue => rw [BitVec.toNat_add, MemRef.displacement_signExtend_toNat]
  case isFalse =>
    split
    case isTrue => rw [BitVec.toNat_add, hd]
    case isFalse => rw [hd, Nat.mod_eq_of_lt (by omega)]

/-- Step 2 without indirection: the reference address itself. -/
theorem State.directAddress_of_direct (s : State) {m : MemRef} (hi : m.i = false) :
    s.directAddress m = .ok (s.referenceAddress m) := by
  simp [State.directAddress, hi]

/-- Step 2 with indirection: the word at the reference address, when its read meets no parity error. -/
theorem State.directAddress_of_indirect {s : State} {m : MemRef} {w : Word} (hi : m.i = true)
    (hw : s.checkedRead (s.referenceAddress m) = .ok w) :
    s.directAddress m = .ok (s.readWord (s.referenceAddress m)) := by
  simp [State.directAddress, hi, hw, State.checkedRead_ok hw]

/-- Step 3: post-indexing with X1 of the direct address. -/
theorem State.effectiveAddress_of_directAddress {s : State} {m : MemRef} {dir : Word}
    (h : s.directAddress m = .ok dir) :
    s.effectiveAddress m = .ok (if m.x then dir + s.x1 else dir) := by
  simp [State.effectiveAddress, h]

/-- Settles O5: the three steps of R93, each by its own lemma. -/
theorem effectiveAddressInThreeSteps : Obligations.EffectiveAddressInThreeSteps := by
  intro s m
  refine ⟨s.referenceAddress_toNat m, fun hi => ?direct, fun w hi hw => ?indirect⟩
  case direct => exact State.effectiveAddress_of_directAddress (s.directAddress_of_direct hi)
  case indirect => exact State.effectiveAddress_of_directAddress (State.directAddress_of_indirect hi hw)

end Sys2Proof.Machine
end

section
/-! The frame of the memory-reference instructions (40_memory_reference.md R120): what an admitted instruction completes
with, what a refused one signals. -/

namespace Sys2Proof.Machine

open Sys2Proof

/-- An admitted instruction of a single effective address completes with its own effect. -/
theorem State.withEffectiveAddress_done {s t : State} {m : MemRef} {ea : Word} {check : Word → Check}
    {effect : Word → State → Effect} (he : s.effectiveAddress m = .ok ea) (ha : s.admits (check ea) = true)
    (hd : effect ea s.followProgram = .done t) :
    s.withEffectiveAddress m (fun addr => s.perform (check addr) (effect addr)) = .next t := by
  rw [State.withEffectiveAddress_ok _ he]
  exact State.perform_done ha hd

/-- An operand read gives an admitted instruction the word it gives before PP follows the program. -/
theorem State.followProgram_withOperand {s : State} {ea w : Word} (hw : s.checkedRead ea = .ok w) (k : Word → Effect) :
    s.followProgram.withOperand ea k = k w :=
  State.withOperand_ok k hw

/-- An admitted instruction that reads its effective word completes with its own effect on that word. -/
theorem State.withEffectiveWord_done {s : State} {m : MemRef} {ea w : Word} (he : s.effectiveAddress m = .ok ea)
    (hw : s.checkedRead ea = .ok w) (ha : s.admits .plain = true) (effect : State → Word → State) :
    s.withEffectiveWord m effect = .next (effect s.followProgram w) :=
  State.withEffectiveAddress_done (check := fun _ => .plain) he ha (State.followProgram_withOperand hw _)

/-- A refused instruction has P back at its address and its level signalled, if the level exists. -/
theorem State.refuse_signalled (s : State) {level : Level} (h : installed s.cfg level = true) :
    { s with p := s.regH }.signalled level (s.refuse level) :=
  State.trigger_signalled _ level h

/-- An operative protection system has its level. -/
theorem State.operative_installed {s : State} (h : s.operative = true) : installed s.cfg protectionLevel = true := by
  have hp : s.cfg.hasProtection = true := by
    unfold State.operative at h
    exact (Bool.and_eq_true_iff.1 h).1
  exact hp

/-- Without the multiply/divide option the multiply exception level exists. -/
theorem multiplyLevel_installed {cfg : Config} (h : cfg.hasMulDiv = false) : installed cfg multiplyLevel = true := by
  have hn : (!cfg.hasMulDiv) = true := by rw [h, Bool.not_false]
  exact hn

/-- Rule 3: a storing instruction in unprotected memory does not reach protected memory (60_exceptions.md R303, R306). -/
theorem State.perform_store_refused {s : State} {addr : Word} (effect : State → Effect) (ho : s.operative = true)
    (hv : s.violationsInhibited = false) (hh : s.protectedAddress s.regH = false)
    (hp : s.protectedAddress addr = true) :
    ∃ t, s.perform (.store addr) effect = .next t ∧ { s with p := s.regH, pp := false }.signalled protectionLevel t := by
  have hentry : s.refusesEntry = false := by simp [State.refusesEntry, hh]
  have hstore : s.refusesStore addr = true := by simp [State.refusesStore, ho, hv, hh, hp]
  have hpp : s.followProgram = { s with pp := false } := by rw [State.followProgram, hh]
  refine ⟨_, State.perform_check hentry hstore, ?_⟩
  rw [hpp]
  exact State.refuse_signalled { s with pp := false } (State.operative_installed ho)

/-- A store at the effective location: the word reads back, a nonexistent location keeps nothing, every other word is
as it was (20_memory.md R63). -/
theorem State.writeWord_reads (s : State) (ea v : Word) (hm : s.mem.wf = true) :
    (s.hasLocation ea = true → (s.writeWord ea v).readWord ea = v) ∧
    (s.hasLocation ea = false → (s.writeWord ea v).mem = s.mem) ∧
    ∀ addr : Word, addr ≠ ea → (s.writeWord ea v).readWord addr = s.readWord addr := by
  have hc : s.mem.Canonical := ((Memory.wf_iff s.mem).1 hm).1
  refine ⟨fun hl => ?stored, fun hl => ?nonexistent, fun addr hne => ?other⟩
  case stored => rw [State.readWord_writeWord s ea ea v hc, if_pos ⟨rfl, hl⟩]
  case nonexistent => simp [hl]
  case other => rw [State.readWord_writeWord s ea addr v hc, if_neg fun h => hne h.1]

end Sys2Proof.Machine
end

section
/-! Loads, stores, arithmetic and comparison (40_memory_reference.md R121 to R130, R133): each instruction's own effect,
put into the frame. -/

namespace Sys2Proof.Machine

open Sys2Proof

/-- Settles O6: the loads and the logical product, each with the word of memory. -/
theorem loadsAndLogicalProduct : Obligations.LoadsAndLogicalProduct := by
  intro s m ea w he hw ha
  obtain rfl : w = s.readWord ea := State.checkedRead_ok hw
  refine ⟨?lda, ?and, fun hx => ?ldx⟩
  case lda => exact State.withEffectiveWord_done he hw ha _
  case and => exact State.withEffectiveWord_done he hw ha _
  case ldx =>
    calc exec (.ldx m) s
        = s.withEffectiveWord m fun s1 v => { s1 with x1 := v } := if_neg (by simp [hx])
      _ = _ := State.withEffectiveWord_done he hw ha _

/-- Settles O7: the store of A, and its refusal by rule 3. -/
theorem storeAccumulatorStores : Obligations.StoreAccumulatorStores := by
  intro s m ea he
  refine ⟨fun hm ha => ?stored, fun ho hv hh hp => ?refused⟩
  case stored =>
    exact ⟨s.followProgram.writeWord ea s.a, State.withEffectiveAddress_done (check := .store) he ha rfl, rfl,
      State.writeWord_reads s.followProgram ea s.a hm⟩
  case refused =>
    have hexec : exec (.sta m) s = s.perform (.store ea) fun s1 => .done (s1.writeWord ea s1.a) :=
      State.withEffectiveAddress_ok _ he
    rw [hexec]
    exact State.perform_store_refused _ ho hv hh hp

/-- Settles O9, by the sum of `addWords_eq` with no increment. -/
theorem addAddsWithCarryAndOverflow : Obligations.AddAddsWithCarryAndOverflow := by
  intro s m ea w he hw ha
  have hsum : addWords s.a w false =
      { value := s.a + w
        o := decide (s.a.toInt + w.toInt < -0x8000 ∨ 0x7FFF < s.a.toInt + w.toInt)
        c := decide (0x10000 ≤ s.a.toNat + w.toNat) } := by
    simp [addWords_eq, BitVec.add_def]
  calc exec (.add m) s
      = .next { s.followProgram with
          a := (addWords s.a w false).value, o := (addWords s.a w false).o, c := (addWords s.a w false).c } :=
        State.withEffectiveWord_done he hw ha _
    _ = _ := by rw [hsum]; rfl

/-- Settles O10, by the difference of `subtractWords_eq`. -/
theorem subtractSetsCarryWithoutBorrow : Obligations.SubtractSetsCarryWithoutBorrow := by
  intro s m ea w he hw ha
  calc exec (.sub m) s
      = .next { s.followProgram with
          a := (subtractWords s.a w).value, o := (subtractWords s.a w).o, c := (subtractWords s.a w).c } :=
        State.withEffectiveWord_done he hw ha _
    _ = _ := by rw [subtractWords_eq]; rfl

/-- Settles O15, by the comparison code of `compareWords_eq`. -/
theorem compareRecordsTheSignedOrder : Obligations.CompareRecordsTheSignedOrder := by
  intro s m ea w he hw ha
  calc exec (.cp m) s
      = .next { s.followProgram with o := (compareWords s.a w).1, c := (compareWords s.a w).2 } :=
        State.withEffectiveWord_done he hw ha _
    _ = _ := by rw [compareWords_eq]; rfl

/-- What MUL writes with the option: the halves of the product, and its sign in C (40_memory_reference.md R127). -/
def State.multiplied (s : State) (w : Word) : State :=
  { s with
    e := (multiplyWords s.a w).extractLsb' 16 16
    a := (multiplyWords s.a w).extractLsb' 0 16
    c := (multiplyWords s.a w).msb }

/-- MUL with the option. -/
theorem exec_mul_installed {s : State} {m : MemRef} {ea w : Word} (he : s.effectiveAddress m = .ok ea)
    (ha : s.admits .plain = true) (hw : s.checkedRead ea = .ok w) (ho : s.cfg.hasMulDiv = true) :
    exec (.mul m) s = .next (s.followProgram.multiplied w) :=
  State.withEffectiveAddress_done (check := fun _ => .plain) he ha
    ((if_pos ho).trans (State.followProgram_withOperand hw _))

/-- MUL without the option. -/
theorem exec_mul_uninstalled {s : State} {m : MemRef} {ea : Word} (he : s.effectiveAddress m = .ok ea)
    (ha : s.admits .plain = true) (ho : s.cfg.hasMulDiv = false) :
    exec (.mul m) s = .next (s.followProgram.refuse multiplyLevel) :=
  State.withEffectiveAddress_done (check := fun _ => .plain) he ha (if_neg (by simp [ho]))

/-- Settles O11: E and A are the halves of the product that `multiplyWords_toInt` says is exact. -/
theorem multiplyGivesTheExactProduct : Obligations.MultiplyGivesTheExactProduct := by
  intro s m ea he ha
  refine ⟨fun w hw ho => ?product, fun ho => ?exception⟩
  case product =>
    refine ⟨_, exec_mul_installed he ha hw ho, rfl, ?exact, ?sign⟩
    case exact => exact (congrArg BitVec.toInt (halves _)).trans (multiplyWords_toInt s.a w)
    case sign =>
      have hsign : (multiplyWords s.a w).msb = decide (s.a.toInt * w.toInt < 0) := by
        rw [BitVec.msb_eq_toInt, multiplyWords_toInt]
      exact hsign
  case exception =>
    exact ⟨_, exec_mul_uninstalled he ha ho,
      State.refuse_signalled s.followProgram (multiplyLevel_installed ho)⟩

/-- The effective word plus 1, with its indicators, in the numbers. -/
theorem incrementWord_eq (w : Word) : incrementWord w =
    { value := w + 1
      o := decide ((w.toNat + 1) % 0x10000 = 0x8000)
      c := decide ((w.toNat + 1) % 0x10000 = 0) } := by
  have hv : (w + 1).toNat = (w.toNat + 1) % 0x10000 := BitVec.toNat_add w 1
  have hone : ∀ k : Word, (w + 1 == k) = decide ((w.toNat + 1) % 0x10000 = k.toNat) := fun k => by
    rw [← hv, beq_eq_decide, decide_eq_decide, BitVec.toNat_inj]
  simp only [incrementWord, hone]
  rfl

/-- What IM writes (40_memory_reference.md R130). -/
def State.incremented (s : State) (ea w : Word) : State :=
  { s.writeWord ea (incrementWord w).value with o := (incrementWord w).o, c := (incrementWord w).c }

/-- Settles O13: the incremented word is stored as STA stores A, and refused as STA is. -/
theorem incrementMemoryIncrements : Obligations.IncrementMemoryIncrements := by
  intro s m ea he
  refine ⟨fun w hm hw ha => ?stored, fun ho hv hh hp => ?refused⟩
  case stored =>
    obtain ⟨hread, hnone, hother⟩ := State.writeWord_reads s.followProgram ea (incrementWord w).value hm
    refine ⟨s.followProgram.incremented ea w,
      State.withEffectiveAddress_done (check := .store) he ha (State.followProgram_withOperand hw _), ?frame,
      fun hl => ?word, hnone, hother⟩
    case frame => simp only [State.incremented, incrementWord_eq]; rfl
    case word => exact (congrArg BitVec.toNat (hread hl)).trans (BitVec.toNat_add w 1)
  case refused =>
    have hexec : exec (.im m) s = s.perform (.store ea) fun s1 => s1.withOperand ea fun w =>
        .done (s1.incremented ea w) := State.withEffectiveAddress_ok _ he
    rw [hexec]
    exact State.perform_store_refused _ ho hv hh hp

end Sys2Proof.Machine
end

section
/-! Shifts (40_memory_reference.md R132): the register and indicators after each kind of shift, then which of them S
writes back. -/

namespace Sys2Proof.Machine

open Sys2Proof

/-- The overflow of an arithmetic left shift: the sign position changed at some step. -/
def signChanges {n : Nat} (v : BitVec n) (k : Nat) : Bool :=
  (List.range (k + 1)).any fun j => (v <<< j).msb != v.msb

/-- The carry of a left shift: the sign of `step j`, the register after `j` positions, was one an odd number of times. -/
def oddOnesLeave {n : Nat} (step : Nat → BitVec n) (k : Nat) : Bool :=
  decide (((List.range k).countP fun j => (step j).msb) % 2 = 1)

/-- A register with its indicators after a shift of a kind by `k` positions, said without going through the positions. -/
def shifted {n : Nat} (kind : ShiftKind) (v : BitVec n) (k : Nat) : Shifting n :=
  match kind with
  | .arithmeticRight => { v := v.sshiftRight k, o := false, c := false }
  | .circularRight => { v := v.rotateRight k, o := false, c := false }
  | .arithmeticLeft => { v := v <<< k, o := signChanges v k, c := oddOnesLeave (v <<< ·) k }
  | .circularLeft => { v := v.rotateLeft k, o := false, c := oddOnesLeave v.rotateLeft k }

/-- Shifting one position at a time, from indicators that are reset, gives the whole shift. -/
theorem shiftBy_eq_shifted {n : Nat} (kind : ShiftKind) (v : BitVec n) (k : Nat) :
    shiftBy kind k { v := v, o := false, c := false } = shifted kind v k := by
  cases kind with
  | arithmeticRight => exact shiftBy_arithmeticRight n k v false false
  | circularRight => exact shiftBy_circularRight n k v false false
  | arithmeticLeft =>
    rw [shiftBy_arithmeticLeft n k v v false false 0 (by simp) (by simp [BitVec.msb])]
    simp [shifted, signChanges, oddOnesLeave]
  | circularLeft =>
    rw [shiftBy_circularLeft]
    simp [shifted, oddOnesLeave]

/-- What S writes with bit 8 reset: A alone. -/
theorem shiftEffect_single {s : State} {ea : Word} (h8 : ea.bit 8 = false) :
    shiftEffect s ea = { s with
      a := (shifted (shiftKind ea) s.a (ea.toNat % 32)).v
      o := (shifted (shiftKind ea) s.a (ea.toNat % 32)).o
      c := (shifted (shiftKind ea) s.a (ea.toNat % 32)).c } := by
  simp [shiftEffect, h8, shiftBy_eq_shifted, shiftCount_eq]

/-- What S writes with bit 8 set: the two halves of E and A shifted as one register. -/
theorem shiftEffect_double {s : State} {ea : Word} (h8 : ea.bit 8 = true) :
    shiftEffect s ea = { s with
      e := (shifted (shiftKind ea) (s.e ++ s.a : BitVec 32) (ea.toNat % 32)).v.extractLsb' 16 16
      a := (shifted (shiftKind ea) (s.e ++ s.a : BitVec 32) (ea.toNat % 32)).v.extractLsb' 0 16
      o := (shifted (shiftKind ea) (s.e ++ s.a : BitVec 32) (ea.toNat % 32)).o
      c := (shifted (shiftKind ea) (s.e ++ s.a : BitVec 32) (ea.toNat % 32)).c } := by
  simp [shiftEffect, h8, shiftBy_eq_shifted, shiftCount_eq]

/-- An admitted S completes with the shift its effective address specifies. -/
theorem exec_shift {s : State} {m : MemRef} {ea : Word} (he : s.effectiveAddress m = .ok ea)
    (ha : s.admits .plain = true) : exec (.shift m) s = .next (shiftEffect s.followProgram ea) :=
  State.withEffectiveAddress_done (check := fun _ => .plain) he ha rfl

/-- The shifts of A alone, by their kind. -/
theorem exec_shift_single {s : State} {m : MemRef} {ea : Word} {kind : ShiftKind} (he : s.effectiveAddress m = .ok ea)
    (ha : s.admits .plain = true) (h8 : ea.bit 8 = false) (hk : shiftKind ea = kind) :
    exec (.shift m) s = .next { s with
      pp := s.protectedAddress s.regH
      a := (shifted kind s.a (ea.toNat % 32)).v
      o := (shifted kind s.a (ea.toNat % 32)).o
      c := (shifted kind s.a (ea.toNat % 32)).c } := by
  subst hk
  rw [exec_shift he ha, shiftEffect_single h8]
  rfl

/-- The shifts of E and A, whatever their kind: the new E and A make up the shifted doubleword. -/
theorem exec_shift_double {s : State} {m : MemRef} {ea : Word} (he : s.effectiveAddress m = .ok ea)
    (ha : s.admits .plain = true) (h8 : ea.bit 8 = true) :
    ∃ t, exec (.shift m) s = .next t ∧
      t = { s with pp := s.protectedAddress s.regH, e := t.e, a := t.a, o := t.o, c := t.c } ∧
      { v := t.e ++ t.a, o := t.o, c := t.c } = shifted (shiftKind ea) (s.e ++ s.a : BitVec 32) (ea.toNat % 32) := by
  refine ⟨_, exec_shift he ha, ?_⟩
  rw [shiftEffect_double h8]
  refine ⟨rfl, ?_⟩
  simp only [halves]
  rfl

/-- Settles O14: the kinds of `shifted`, on A alone and on E and A. -/
theorem shiftsFollowTheSpecification : Obligations.ShiftsFollowTheSpecification := by
  refine ⟨fun s m ea he ha h8 => ?single, fun s m ea v he ha h8 hv => ?double⟩
  case single =>
    exact ⟨fun h9 h10 => exec_shift_single (kind := .arithmeticRight) he ha h8 (by simp [shiftKind, h9, h10]),
      fun h9 h10 => exec_shift_single (kind := .arithmeticLeft) he ha h8 (by simp [shiftKind, h9, h10]),
      fun h9 h10 => exec_shift_single (kind := .circularRight) he ha h8 (by simp [shiftKind, h9, h10]),
      fun h9 h10 => exec_shift_single (kind := .circularLeft) he ha h8 (by simp [shiftKind, h9, h10])⟩
  case double =>
    subst hv
    obtain ⟨t, hexec, hframe, ht⟩ := exec_shift_double he ha h8
    refine ⟨t, hexec, hframe, fun h9 h10 => ?_, fun h9 h10 => ?_, fun h9 h10 => ?_, fun h9 h10 => ?_⟩
    all_goals
      simp only [shiftKind, h9, h10] at ht
      exact ⟨congrArg Shifting.v ht, congrArg Shifting.o ht, congrArg Shifting.c ht⟩

end Sys2Proof.Machine
end

section
/-! Branches (40_memory_reference.md R131, 41_conditional_branch.md R150 to R155): one lemma for a conditional branch of
any condition. -/

namespace Sys2Proof.Machine

open Sys2Proof

/-- Bit 0 is the sign of the signed number a word stands for. -/
theorem Word.bit_zero_iff_neg (w : Word) : Word.bit w 0 = true ↔ w.toInt < 0 := by
  have h : Word.bit w 0 = w.msb := rfl
  rw [h, BitVec.msb_eq_toInt, decide_eq_true_iff]

/-- An admitted conditional branch loads P with H plus the displacement exactly if its condition holds. -/
theorem State.perform_branchIf {s : State} {condition : State → Bool} {holds : Prop} [Decidable holds]
    (ha : s.admits .plain = true) (hc : condition s.followProgram = true ↔ holds) (disp : BitVec 9) :
    s.perform .plain (fun s1 => .done (s1.branchIf (condition s1) disp)) = .next { s with
      pp := s.protectedAddress s.regH, p := if holds then s.regH + disp.signExtend 16 else s.p } := by
  refine State.perform_done ha (congrArg Effect.done ?_)
  by_cases h : holds
  case pos => simp only [State.branchIf, if_pos (hc.2 h), if_pos h]; rfl
  case neg => simp only [State.branchIf, if_neg (mt hc.1 h), if_neg h]; rfl

/-- Settles O16: B by its effective address, the others by their conditions. -/
theorem branchesLoadTheProgramAddress : Obligations.BranchesLoadTheProgramAddress := by
  refine ⟨fun s m ea he ha => ?b, fun s disp ha => ⟨?bno, ?bnc, ?baz, ?ben, ?ban⟩⟩
  case b => exact State.withEffectiveAddress_done (check := fun _ => .plain) he ha rfl
  case bno => exact State.perform_branchIf (condition := fun s1 => !s1.o) ha (iff_of_eq (Bool.not_eq_true' s.o)) disp
  case bnc => exact State.perform_branchIf (condition := fun s1 => !s1.c) ha (iff_of_eq (Bool.not_eq_true' s.c)) disp
  case baz => exact State.perform_branchIf (condition := fun s1 => s1.a == 0) ha beq_iff_eq disp
  case ben => exact State.perform_branchIf (condition := fun s1 => s1.e.bit 0) ha (Word.bit_zero_iff_neg s.e) disp
  case ban => exact State.perform_branchIf (condition := fun s1 => s1.a.bit 0) ha (Word.bit_zero_iff_neg s.a) disp

end Sys2Proof.Machine
end

section
/-! Branches on the incremented index (41_conditional_branch.md R156 to R158): the count and its branch once, then the
forms that an indicator turns into no operation. -/

namespace Sys2Proof.Machine

open Sys2Proof

/-- A word incremented modulo 2^16 becomes zero only from the largest word. -/
theorem Word.add_one_eq_zero_iff (w : Word) : w + 1 = 0 ↔ w.toNat = 0xFFFF := by
  bv_omega

/-- The count and its branch: X1 goes up by 1, and P takes H plus the displacement unless X1 became zero. -/
theorem State.branchOnIndex_eq (s : State) (disp : BitVec 9) :
    s.branchOnIndex disp = { s with
      x1 := s.x1 + 1
      p := if s.x1.toNat = 0xFFFF then s.p else s.regH + disp.signExtend 16 } := by
  have hnonzero : (s.x1 + 1 != 0) = true ↔ ¬ s.x1.toNat = 0xFFFF :=
    bne_iff_ne.trans (not_congr (Word.add_one_eq_zero_iff s.x1))
  by_cases h : s.x1.toNat = 0xFFFF
  case pos => simp only [State.branchOnIndex, State.branchIf, if_neg fun hb => hnonzero.1 hb h, if_pos h]
  case neg => simp only [State.branchOnIndex, State.branchIf, if_pos (hnonzero.2 h), if_neg h]; rfl

/-- An admitted index branch under an indicator: set, it leaves only PP to follow the program; reset, it counts. -/
theorem State.perform_branchOnIndex_unless {s : State} (ha : s.admits .plain = true) (indicator : State → Bool)
    (disp : BitVec 9) :
    s.perform .plain (fun s1 => .done (if indicator s1 then s1 else s1.branchOnIndex disp)) =
      .next (if indicator s.followProgram then s.followProgram else s.followProgram.branchOnIndex disp) :=
  State.perform_done ha rfl

/-- Settles O17: the count of `State.branchOnIndex_eq`, alone and under O and C. -/
theorem indexBranchesCount : Obligations.IndexBranchesCount := by
  intro s disp counted ha hcounted
  have hcount : s.followProgram.branchOnIndex disp = counted :=
    (State.branchOnIndex_eq s.followProgram disp).trans hcounted.symm
  rw [← hcount]
  refine ⟨?bix, ?bxno, ?bxnc⟩
  case bix => exact State.perform_done (effect := fun s1 => .done (s1.branchOnIndex disp)) ha rfl
  case bxno => exact State.perform_branchOnIndex_unless ha (·.o) disp
  case bxnc => exact State.perform_branchOnIndex_unless ha (·.c) disp

end Sys2Proof.Machine
end

section
/-! The copy instruction (42_copy.md R165 to R182): its operands, then one lemma for the three logical operations and
one for the addition, each over every setting of AC, AI and CD. The fifteen mnemonics are settings of it. -/

namespace Sys2Proof.Machine

open Sys2Proof

/-! ### Operands and result -/

/-- The general registers do not depend on PP. -/
@[simp] theorem State.followProgram_gpr (s : State) (r : Gpr) : s.followProgram.gpr r = s.gpr r := by
  cases r <;> rfl

@[simp] theorem State.followProgram_copySource (s : State) (f : CopyOperands) :
    s.followProgram.copySource f = s.copySource f := by
  simp only [State.copySource, State.followProgram_gpr]

@[simp] theorem State.followProgram_copyDestination (s : State) (cd : Bool) (f : CopyOperands) :
    s.followProgram.copyDestination cd f = s.copyDestination cd f := by
  simp only [State.copyDestination, State.followProgram_gpr]

@[simp] theorem State.followProgram_copyIncrement (s : State) (ac ai : Bool) :
    s.followProgram.copyIncrement ac ai = s.copyIncrement ac ai := rfl

/-- Loading a general register and letting PP follow the program commute. -/
theorem State.followProgram_setGpr (s : State) (r : Gpr) (v : Word) :
    s.followProgram.setGpr r v = { s.setGpr r v with pp := s.protectedAddress s.regH } := by
  cases r <;> rfl

@[simp] theorem State.copyDestination_kept (s : State) (f : CopyOperands) :
    s.copyDestination false f = s.gpr f.dr := rfl

@[simp] theorem State.copyDestination_cleared (s : State) (f : CopyOperands) : s.copyDestination true f = 0 := rfl

@[simp] theorem State.copyIncrement_none (s : State) : s.copyIncrement false false = false := rfl

@[simp] theorem State.copyIncrement_one (s : State) (ac : Bool) : s.copyIncrement ac true = true := rfl

@[simp] theorem State.copyIncrement_carry (s : State) : s.copyIncrement true false = s.c := rfl

/-- The increment as a number: AI alone decides when it is set, and AC reads the carry when it is not. -/
theorem State.copyIncrement_toNat (s : State) (ac ai : Bool) :
    (s.copyIncrement ac ai).toNat = if ai then 1 else if ac && s.c then 1 else 0 := by
  cases ai
  case true => rfl
  case false => exact Bool.cond_eq_ite (ac && s.c) 1 0

/-- An increment as a word, the way `copyResult` adds it. -/
theorem setWidth_ofBool_eq_ofNat (inc : Bool) : (BitVec.ofBool inc).setWidth 16 = BitVec.ofNat 16 inc.toNat := by
  cases inc <;> rfl

@[simp] theorem copyResult_land (dst src : Word) (inc : Bool) :
    copyResult .land dst src inc = (dst &&& src) + BitVec.ofNat 16 inc.toNat :=
  congrArg ((dst &&& src) + ·) (setWidth_ofBool_eq_ofNat inc)

@[simp] theorem copyResult_lor (dst src : Word) (inc : Bool) :
    copyResult .lor dst src inc = (dst ||| src) + BitVec.ofNat 16 inc.toNat :=
  congrArg ((dst ||| src) + ·) (setWidth_ofBool_eq_ofNat inc)

@[simp] theorem copyResult_lxor (dst src : Word) (inc : Bool) :
    copyResult .lxor dst src inc = (dst ^^^ src) + BitVec.ofNat 16 inc.toNat :=
  congrArg ((dst ^^^ src) + ·) (setWidth_ofBool_eq_ofNat inc)

/-! ### What an admitted copy completes with -/

/-- A logical copy loads its destination with its result, and changes nothing else but PP. -/
theorem execCopy_logical {s : State} {v : Word} (ha : s.admits .plain = true) (op : CopyOp) (ac ai cd : Bool)
    (f : CopyOperands) (hv : copyResult op (s.copyDestination cd f) (s.copySource f) (s.copyIncrement ac ai) = v)
    (hop : op ≠ .add := by decide) :
    execCopy ⟨op, ac, ai, cd, f⟩ s = .next (s.followProgram.setGpr f.dr v) := by
  refine State.perform_done ha (congrArg Effect.done ?_)
  subst hv
  cases op
  case add => exact absurd rfl hop
  all_goals simp [copyEffect]

/-- An adding copy loads its destination with the sum, and O and C with the indicators of that sum. -/
theorem execCopy_add {s : State} {dst src : Word} {inc : Nat} (ha : s.admits .plain = true) (ac ai cd : Bool)
    (f : CopyOperands) (hdst : s.copyDestination cd f = dst) (hsrc : s.copySource f = src)
    (hinc : (s.copyIncrement ac ai).toNat = inc) :
    execCopy ⟨.add, ac, ai, cd, f⟩ s = .next { s.setGpr f.dr (BitVec.ofNat 16 (dst.toNat + src.toNat + inc)) with
      pp := s.protectedAddress s.regH
      o := decide (dst.toInt + src.toInt + inc < -0x8000 ∨ 0x7FFF < dst.toInt + src.toInt + inc)
      c := decide (0x10000 ≤ dst.toNat + src.toNat + inc) } := by
  refine State.perform_done ha (congrArg Effect.done ?_)
  subst hdst hsrc hinc
  simp [copyEffect, copyResult, addWords_eq, State.followProgram_setGpr]

/-! ### The obligations -/

/-- Settles O20: the operation decides between the logical copy and the adding one. -/
theorem everyCopySettingFollowsTheFields : Obligations.EveryCopySettingFollowsTheFields := by
  intro s op ac ai cd f dst src inc ha hsrc hdst hinc
  have hinc' : (s.copyIncrement ac ai).toNat = inc := (s.copyIncrement_toNat ac ai).trans hinc.symm
  have logical {op : CopyOp} {v : Word} (hop : op ≠ .add)
      (hv : copyResult op dst src (s.copyIncrement ac ai) = v) :
      execCopy ⟨op, ac, ai, cd, f⟩ s = .next { s.setGpr f.dr v with pp := s.protectedAddress s.regH } := by
    subst hdst hsrc
    rw [← State.followProgram_setGpr]
    exact execCopy_logical ha op ac ai cd f hv hop
  cases op
  case land => exact logical (by decide) (by rw [copyResult_land, hinc'])
  case lor => exact logical (by decide) (by rw [copyResult_lor, hinc'])
  case lxor => exact logical (by decide) (by rw [copyResult_lxor, hinc'])
  case add => exact execCopy_add ha ac ai cd f hdst.symm hsrc.symm hinc'

/-- Settles O19: the three mnemonics are the adding copy that keeps its destination, with each of the increments. -/
theorem addingCopies : Obligations.AddingCopies := by
  intro s f i inc dst src ha hi hsrc hdst
  obtain ⟨rfl, rfl⟩ | ⟨rfl, rfl⟩ | ⟨rfl, rfl⟩ := hi
  case inl => exact execCopy_add ha false false false f hdst.symm hsrc.symm rfl
  case inr.inl => exact execCopy_add ha false true false f hdst.symm hsrc.symm rfl
  case inr.inr => exact execCopy_add ha true false false f hdst.symm hsrc.symm rfl

/-- Settles O18: each mnemonic is a setting of the logical copy (RCPY the OR with a cleared destination), and the
registers read back by `State.setGpr_gpr`. -/
theorem logicalCopies : Obligations.LogicalCopies := by
  refine ⟨fun s s1 f src k ha hs1 hsrc hk => ?copies, fun s r k v => ?registers⟩
  case copies =>
    obtain rfl : s1 = s.followProgram := hs1
    obtain rfl : src = s.copySource f := hsrc
    obtain rfl : k = BitVec.ofNat 16 s.c.toNat := by rw [hk]; cases s.c <;> rfl
    refine ⟨?rcpy, ?ror, ?reor, ?rand, ?rcpyi, ?rori, ?reori, ?randi, ?rcpyc, ?rorc, ?reorc, ?randc⟩
    case rcpy => exact execCopy_logical ha .lor false false true f (by simp)
    case ror => exact execCopy_logical ha .lor false false false f (by simp)
    case reor => exact execCopy_logical ha .lxor false false false f (by simp)
    case rand => exact execCopy_logical ha .land false false false f (by simp)
    case rcpyi => exact execCopy_logical ha .lor false true true f (by simp)
    case rori => exact execCopy_logical ha .lor false true false f (by simp)
    case reori => exact execCopy_logical ha .lxor false true false f (by simp)
    case randi => exact execCopy_logical ha .land false true false f (by simp)
    case rcpyc => exact execCopy_logical ha .lor true false true f (by simp)
    case rorc => exact execCopy_logical ha .lor true false false f (by simp)
    case reorc => exact execCopy_logical ha .lxor true false false f (by simp)
    case randc => exact execCopy_logical ha .land true false false f (by simp)
  case registers =>
    refine ⟨rfl, rfl, fun hr => ?same, fun hne => ?other⟩
    case same => rw [State.setGpr_gpr, if_pos ⟨rfl, hr⟩]
    case other => rw [State.setGpr_gpr, if_neg fun ⟨heq, _⟩ => hne heq]

end Sys2Proof.Machine
end

section
/-! The status functions of RD (43_direct_control.md R194 to R196): what each change of the inhibits does, bit by bit of
the effective address, and the completion that the three functions share. -/

namespace Sys2Proof.Machine

open Sys2Proof

/-- The reset of R195 and R207: a selected inhibit becomes 0, the other stays. -/
theorem State.resetInhibits_eq (s : State) (i e : Bool) : s.resetInhibits i e = { s with
    ii := if i then false else s.ii, ei := if e then false else s.ei } := by
  have reset (b selected : Bool) : (b && !selected) = if selected then false else b := by
    cases selected <;> simp
  simp only [State.resetInhibits, reset]

/-- The setting of R196 and R208: a selected inhibit becomes 1, the other stays. -/
theorem State.setInhibits_eq (s : State) (i e : Bool) : s.setInhibits i e = { s with
    ii := if i then true else s.ii, ei := if e then true else s.ei } := by
  have set (b selected : Bool) : (b || selected) = if selected then true else b := by
    cases selected <;> simp
  simp only [State.setInhibits, set]

/-- Settles O23: the word saved is the status word under the PP of the program that reads it, and the inhibits change
after it is saved. -/
theorem readDirectSavesStatus : Obligations.ReadDirectSavesStatus := by
  intro s i e ha
  refine ⟨s.followProgram.statusWord, s.followProgram.statusWord_bit, ?save, ?reset, ?set⟩
  case save => exact State.perform_done (effect := fun s1 => .done s1.saveStatus) ha rfl
  case reset =>
    exact State.perform_done (effect := fun s1 => .done (s1.saveStatus.resetInhibits i e)) ha
      (congrArg Effect.done (State.resetInhibits_eq s.followProgram.saveStatus i e))
  case set =>
    exact State.perform_done (effect := fun s1 => .done (s1.saveStatus.setInhibits i e)) ha
      (congrArg Effect.done (State.setInhibits_eq s.followProgram.saveStatus i e))

end Sys2Proof.Machine
end

section
/-! The protection rules and the missing multiply/divide option (60_exceptions.md R301 to R306, R311): what frame each
instruction is executed in, which instructions the frame refuses, and the obligations. -/

namespace Sys2Proof.Machine

open Sys2Proof

/-! ### The frame every instruction is executed in -/

/-- Every function an RD effective address selects is a privileged instruction. -/
theorem execRdFunction_performs (f : RdFunction) (s : State) :
    ∃ effect, execRdFunction f s = s.perform .privileged effect := by
  unfold execRdFunction
  cases f <;> exact ⟨_, rfl⟩

/-- Every function a WD effective address selects is a privileged instruction. -/
theorem execWdFunction_performs (f : WdFunction) (s : State) :
    ∃ effect, execWdFunction f s = s.perform .privileged effect := by
  unfold execWdFunction
  cases f <;> exact ⟨_, rfl⟩

/-- RD is privileged whatever its effective address, one that selects no function included. -/
theorem exec_rd_performs {s : State} {m : MemRef} {ea : Word} (he : s.effectiveAddress m = .ok ea) :
    ∃ effect, exec (.rd m) s = s.perform .privileged effect := by
  simp only [exec, execRd, State.withEffectiveAddress_ok _ he]
  split
  case h_1 f _ => exact execRdFunction_performs f s
  case h_2 => exact ⟨_, rfl⟩

/-- WD is privileged whatever its effective address, one that selects no function included. -/
theorem exec_wd_performs {s : State} {m : MemRef} {ea : Word} (he : s.effectiveAddress m = .ok ea) :
    ∃ effect, exec (.wd m) s = s.perform .privileged effect := by
  simp only [exec, execWd, State.withEffectiveAddress_ok _ he]
  split
  case h_1 f _ => exact execWdFunction_performs f s
  case h_2 => exact ⟨_, rfl⟩

/-- LDX is subject to rule 2 only, in either of its forms. -/
theorem exec_ldx_performs {s : State} {m : MemRef} {ea : Word} (he : s.effectiveAddress m = .ok ea) :
    ∃ effect, exec (.ldx m) s = s.perform .plain effect := by
  simp only [exec, execLdx]
  split
  case isTrue => exact ⟨_, State.withEffectiveAddress_ok _ he⟩
  case isFalse => exact ⟨_, State.withEffectiveAddress_ok _ he⟩

/-- An instruction that has its effective address is executed in the frame of `State.perform`, and every privileged one
is checked there as privileged (40_memory_reference.md R120, 43_direct_control.md R190). -/
theorem exec_performs {i : Instr} {s : State} (h : s.addresses i) :
    ∃ check effect, exec i s = s.perform check effect ∧ (isPrivileged i = true → check = .privileged) := by
  unfold exec
  cases i with
  | rd m =>
    obtain ⟨ea, he⟩ := h m rfl
    obtain ⟨effect, hexec⟩ := exec_rd_performs he
    exact ⟨_, effect, hexec, fun _ => rfl⟩
  | wd m =>
    obtain ⟨ea, he⟩ := h m rfl
    obtain ⟨effect, hexec⟩ := exec_wd_performs he
    exact ⟨_, effect, hexec, fun _ => rfl⟩
  | ldx m =>
    obtain ⟨ea, he⟩ := h m rfl
    obtain ⟨effect, hexec⟩ := exec_ldx_performs he
    exact ⟨_, effect, hexec, nofun⟩
  | shift m | mul m | b m | div m | lda m | and m | add m | sub m | cp m | sta m | im m | ldxExitForm m =>
    obtain ⟨ea, he⟩ := h m rfl
    exact ⟨_, _, State.withEffectiveAddress_ok _ he, nofun⟩
  | bno _ | bnc _ | baz _ | bix _ | bxno _ | bxnc _ | ben _ | ban _
  | copy _ | rand _ | randi _ | randc _ | ror _ | rcpy _ | rori _ | rcpyi _ | rorc _ | rcpyc _ | reor _ | reori _
  | reorc _ | radd _ | raddi _ | raddc _ => exact ⟨_, _, rfl, nofun⟩
  | sio | tio | tdv | hio | aio | rdRegister _ | rdDataSwitches | rdSaveStatus | rdSaveStatusResetInhibits _ _
  | rdSaveStatusSetInhibits _ _ | rdDirectIO _
  | wdRegister _ | wdTestAndResetBit0 _ | wdProtectionRegister _ | wdLoadStatus | wdWait | wdExit
  | wdResetInhibits _ _ | wdSetInhibits _ _ | wdInterruptControl001 _ | wdInterruptControl010 _
  | wdInterruptControl011 _ | wdInterruptControl100 _ | wdInterruptControl101 _ | wdInterruptControl110 _
  | wdInterruptControl111 _ | wdWatchdogDisable | wdWatchdogEnable | wdWatchdogResetTimer | wdDirectIO _ =>
    exact ⟨_, _, rfl, fun _ => rfl⟩

/-! ### What the frame refuses -/

/-- Rule 1: a privileged instruction in unprotected memory is refused, with PP following the unprotected program
(60_exceptions.md R301, R304, R306). -/
theorem State.perform_privileged_refused {s : State} (effect : State → Effect) (ho : s.operative = true)
    (hv : s.violationsInhibited = false) (hh : s.protectedAddress s.regH = false) :
    ∃ t, s.perform .privileged effect = .next t ∧
      { s with p := s.regH, pp := false }.signalled protectionLevel t := by
  have hentry : s.refusesEntry = false := by simp [State.refusesEntry, hh]
  have hprivileged : s.refusesPrivileged = true := by simp [State.refusesPrivileged, ho, hv, hh]
  have hpp : s.followProgram = { s with pp := false } := by rw [State.followProgram, hh]
  refine ⟨_, State.perform_check hentry hprivileged, ?_⟩
  rw [hpp]
  exact State.refuse_signalled { s with pp := false } (State.operative_installed ho)

/-- Rule 2: protected memory is not entered from unprotected memory outside the first instruction of an interrupt
routine (60_exceptions.md R302, R306). -/
theorem State.perform_entry_refused {s : State} {check : Check} (effect : State → Effect) (ho : s.operative = true)
    (hv : s.violationsInhibited = false) (hpp : s.pp = false) (hh : s.protectedAddress s.regH = true)
    (hhold : s.hold = false) :
    ∃ t, s.perform check effect = .next t ∧ { s with p := s.regH }.signalled protectionLevel t := by
  have hentry : s.refusesEntry = true := by simp [State.refusesEntry, ho, hv, hpp, hh, hhold]
  exact ⟨_, State.perform_entry hentry, State.refuse_signalled s (State.operative_installed ho)⟩

/-- Without the multiply/divide option the divide exception level exists. -/
theorem divideLevel_installed {cfg : Config} (h : cfg.hasMulDiv = false) : installed cfg divideLevel = true := by
  have hn : (!cfg.hasMulDiv) = true := by rw [h, Bool.not_false]
  exact hn

/-- DIV without the option. -/
theorem exec_div_uninstalled {s : State} {m : MemRef} {ea : Word} (he : s.effectiveAddress m = .ok ea)
    (ha : s.admits .plain = true) (ho : s.cfg.hasMulDiv = false) :
    exec (.div m) s = .next (s.followProgram.refuse divideLevel) :=
  State.withEffectiveAddress_done (check := fun _ => .plain) he ha (if_neg (by simp [ho]))

/-! ### The obligations -/

/-- Settles O45: every privileged instruction is performed with the check of rule 1. -/
theorem privilegedInstructionsNeedProtectedMemory : Obligations.PrivilegedInstructionsNeedProtectedMemory := by
  intro i s hi haddr ho hv hh
  obtain ⟨check, effect, hexec, hcheck⟩ := exec_performs haddr
  rw [hexec, hcheck hi]
  exact State.perform_privileged_refused effect ho hv hh

/-- Settles O46: every instruction is performed in the frame, and rule 2 comes first there. -/
theorem protectedMemoryIsEnteredByInterruptOnly : Obligations.ProtectedMemoryIsEnteredByInterruptOnly := by
  intro i s haddr ho hv hpp hh hhold
  obtain ⟨check, effect, hexec, -⟩ := exec_performs haddr
  rw [hexec]
  exact State.perform_entry_refused effect ho hv hpp hh hhold

/-- Settles O47: the refusals that belong to the meanings of STA (O7) and IM (O13). -/
theorem unprotectedStoresAreRefused : Obligations.UnprotectedStoresAreRefused := by
  intro s m ea he ho hv hh hp
  obtain ⟨-, hsta⟩ := storeAccumulatorStores s m ea he
  obtain ⟨-, him⟩ := incrementMemoryIncrements s m ea he
  exact ⟨hsta ho hv hh hp, him ho hv hh hp⟩

/-- Settles O49: both instructions are admitted and then refused for the missing option. -/
theorem multiplyAndDivideExceptions : Obligations.MultiplyAndDivideExceptions := by
  intro s m ea he ha hopt
  refine ⟨⟨_, exec_mul_uninstalled he ha hopt, ?multiply⟩, ⟨_, exec_div_uninstalled he ha hopt, ?divide⟩⟩
  case multiply => exact State.refuse_signalled s.followProgram (multiplyLevel_installed hopt)
  case divide => exact State.refuse_signalled s.followProgram (divideLevel_installed hopt)

end Sys2Proof.Machine
end

section
/-! The formats of the instruction word (30_encoding.md R91, R95, R96): a word has the fields it was put together from,
and is put together again from its fields. -/

namespace Sys2Proof

/-! ### Words put together and taken apart -/

/-- Two words put together from parts of equal widths are equal exactly if their parts are. -/
theorem append_eq_append_iff {h k : Nat} {a c : BitVec h} {b d : BitVec k} : a ++ b = c ++ d ↔ a = c ∧ b = d := by
  refine ⟨fun e => ⟨?high, ?low⟩, fun ⟨hac, hbd⟩ => by rw [hac, hbd]⟩
  case high => simpa only [BitVec.extractLsb'_append_eq_left] using congrArg (BitVec.extractLsb' k h) e
  case low => simpa only [BitVec.extractLsb'_append_eq_right] using congrArg (BitVec.extractLsb' 0 k) e

theorem ofBool_eq_ofBool_iff {a b : Bool} : BitVec.ofBool a = BitVec.ofBool b ↔ a = b := by
  revert a b; decide

/-- A word that agrees with a pattern in the high part is the pattern over the word's own low part. -/
theorem append_low_of_and_eq {h k : Nat} {w : BitVec (h + k)} {hi : BitVec h}
    (hw : w &&& (BitVec.allOnes h ++ 0#k) = hi ++ 0#k) : hi ++ w.extractLsb' 0 k = w := by
  have hhi : w.extractLsb' k h = hi := by
    have := congrArg (BitVec.extractLsb' k h) hw
    rwa [BitVec.extractLsb'_and, BitVec.extractLsb'_append_eq_left, BitVec.extractLsb'_append_eq_left,
      BitVec.and_allOnes] at this
  rw [← hhi, BitVec.extractLsb'_append_extractLsb']

/-- Adjacent fields of a word make one field. -/
theorem field_append_field (w : Word) (i n m : Nat) :
    w.extractLsb' (i + n) m ++ w.extractLsb' i n = w.extractLsb' i (m + n) :=
  BitVec.extractLsb'_append_extractLsb'_eq_extractLsb' rfl

/-- A bit of a word, in the manual's numbering, is a field of width one. -/
theorem ofBool_bit (w : Word) (i j : Nat) (h : i + j = 15) : BitVec.ofBool (w.bit i) = w.extractLsb' j 1 := by
  have hbit : w.bit i = w.getLsbD j := by
    have hi : i < 16 := by omega
    have hj : 15 - i = j := by omega
    simp [Word.bit, BitVec.getMsbD, hi, hj]
  ext k hk
  obtain rfl : k = 0 := by omega
  simp [hbit]

/-! ### The memory-reference format -/

theorem MemRef.bits_eq_iff {m k : MemRef} : m.bits = k.bits ↔ m = k := by
  cases m; cases k
  rw [MemRef.bits, MemRef.bits, append_eq_append_iff, MemRef.mk.injEq]
  simp only [append_eq_append_iff, ofBool_eq_ofBool_iff, and_assoc]

/-- The address fields of a word are its low twelve bits. -/
theorem MemRef.bits_ofWord (w : Word) : (MemRef.ofWord w).bits = w.extractLsb' 0 12 := by
  calc (MemRef.ofWord w).bits
      = w.extractLsb' 11 1 ++ w.extractLsb' 10 1 ++ w.extractLsb' 9 1 ++ w.extractLsb' 8 1 ++ w.extractLsb' 0 8 := by
        rw [← ofBool_bit w 4 11 rfl, ← ofBool_bit w 5 10 rfl, ← ofBool_bit w 6 9 rfl, ← ofBool_bit w 7 8 rfl]
        rfl
    _ = w.extractLsb' 0 12 := by
        rw [field_append_field w 10 1 1, field_append_field w 9 1 2, field_append_field w 8 1 3,
          field_append_field w 0 8 4]

/-- A word is its operation code and its address fields (R91). -/
theorem encodeMemRef_eq_some_iff {op : BitVec 4} {m : MemRef} {w : Word} :
    encodeMemRef op m = some w ↔ w.field 0 3 = op ∧ MemRef.ofWord w = m := by
  have hw : w.field 0 3 ++ (MemRef.ofWord w).bits = w := by
    rw [MemRef.bits_ofWord]
    exact field_append_field w 0 12 4 |>.trans BitVec.extractLsb'_eq_self
  calc encodeMemRef op m = some w
      ↔ op ++ m.bits = w.field 0 3 ++ (MemRef.ofWord w).bits := by rw [hw]; exact Option.some_inj
    _ ↔ w.field 0 3 = op ∧ MemRef.ofWord w = m := by
        rw [append_eq_append_iff, MemRef.bits_eq_iff, eq_comm (a := op), eq_comm (a := m)]

/-! ### The conditional branch format -/

/-- A branch word is its condition and its displacement (R95). -/
theorem encodeBranch_eq_some_iff {condition : BitVec 3} {disp : BitVec 9} {w : Word} :
    encodeBranch condition disp = some w ↔ w.field 0 3 = 0x6#4 ∧ w.field 4 6 = condition ∧ w.field 7 15 = disp := by
  have hw : w.field 0 3 ++ w.field 4 6 ++ w.field 7 15 = w :=
    calc w.extractLsb' 12 4 ++ w.extractLsb' 9 3 ++ w.extractLsb' 0 9
        = w.extractLsb' 9 7 ++ w.extractLsb' 0 9 := by rw [field_append_field w 9 3 4]
      _ = w := (field_append_field w 0 9 7).trans BitVec.extractLsb'_eq_self
  calc encodeBranch condition disp = some w
      ↔ 0x6#4 ++ condition ++ disp = w.field 0 3 ++ w.field 4 6 ++ w.field 7 15 := by rw [hw]; exact Option.some_inj
    _ ↔ _ := by
        rw [append_eq_append_iff, append_eq_append_iff, and_assoc, eq_comm (a := 0x6#4), eq_comm (a := condition),
          eq_comm (a := disp)]

/-! ### The copy format -/

theorem Gpr.ofBits_eq_iff {b : BitVec 3} {r : Gpr} : Gpr.ofBits b = r ↔ r.bits = b := by
  revert b
  cases r <;> decide

theorem CopyOp.ofBits_eq_iff {b : BitVec 2} {op : CopyOp} : CopyOp.ofBits b = op ↔ op.bits = b := by
  revert b
  cases op <;> decide

/-- The operands of a copy word are its low seven bits. -/
theorem CopyOperands.ofWord_eq_iff {w : Word} {f : CopyOperands} :
    CopyOperands.ofWord w = f ↔ f.bits = w.extractLsb' 0 7 := by
  have hw : w.field 9 11 ++ BitVec.ofBool (w.bit 12) ++ w.field 13 15 = w.extractLsb' 0 7 := by
    rw [ofBool_bit w 12 3 rfl]
    calc w.extractLsb' 4 3 ++ w.extractLsb' 3 1 ++ w.extractLsb' 0 3
        = w.extractLsb' 3 4 ++ w.extractLsb' 0 3 := by rw [field_append_field w 3 1 3]
      _ = w.extractLsb' 0 7 := field_append_field w 0 3 4
  obtain ⟨dr, inv, sr⟩ := f
  rw [← hw, CopyOperands.bits, append_eq_append_iff, append_eq_append_iff, ofBool_eq_ofBool_iff,
    ← Gpr.ofBits_eq_iff, ← Gpr.ofBits_eq_iff, eq_comm (a := inv), CopyOperands.ofWord, CopyOperands.mk.injEq, and_assoc]

/-- A copy word is the setting of its fields and its operands (R96). -/
theorem encodeCopy_eq_some_iff {op : CopyOp} {ac ai cd : Bool} {f : CopyOperands} {w : Word} :
    encodeCopy op ac ai cd f = some w ↔ w.field 0 3 = 0x7#4 ∧ CopyOp.ofBits (w.field 4 5) = op ∧ w.bit 6 = ac ∧
      w.bit 7 = ai ∧ w.bit 8 = cd ∧ CopyOperands.ofWord w = f := by
  have hw : w.field 0 3 ++ w.field 4 5 ++ BitVec.ofBool (w.bit 6) ++ BitVec.ofBool (w.bit 7) ++
      BitVec.ofBool (w.bit 8) ++ w.extractLsb' 0 7 = w := by
    rw [ofBool_bit w 6 9 rfl, ofBool_bit w 7 8 rfl, ofBool_bit w 8 7 rfl]
    calc w.extractLsb' 12 4 ++ w.extractLsb' 10 2 ++ w.extractLsb' 9 1 ++ w.extractLsb' 8 1 ++ w.extractLsb' 7 1
          ++ w.extractLsb' 0 7
        = w.extractLsb' 7 9 ++ w.extractLsb' 0 7 := by
          rw [field_append_field w 10 2 4, field_append_field w 9 1 6, field_append_field w 8 1 7,
            field_append_field w 7 1 8]
      _ = w := (field_append_field w 0 7 9).trans BitVec.extractLsb'_eq_self
  calc encodeCopy op ac ai cd f = some w
      ↔ 0x7#4 ++ op.bits ++ BitVec.ofBool ac ++ BitVec.ofBool ai ++ BitVec.ofBool cd ++ f.bits =
          w.field 0 3 ++ w.field 4 5 ++ BitVec.ofBool (w.bit 6) ++ BitVec.ofBool (w.bit 7) ++
            BitVec.ofBool (w.bit 8) ++ w.extractLsb' 0 7 := by rw [hw]; exact Option.some_inj
    _ ↔ _ := by
        simp only [append_eq_append_iff, ofBool_eq_ofBool_iff, and_assoc, ← CopyOp.ofBits_eq_iff,
          ← CopyOperands.ofWord_eq_iff]
        rw [eq_comm (a := 0x7#4), eq_comm (a := ac), eq_comm (a := ai), eq_comm (a := cd)]

end Sys2Proof
end

section
/-! The effective addresses of RD and WD (43_direct_control.md R191, R200, R210, R221, R222): the address of the function
that an address selects is that address again, and a function's address selects it. -/

namespace Sys2Proof

/-! ### Addresses that hold an operand -/

/-- An address of a register block is the block's base over the register number. -/
theorem register_address {w : Word} {hi : BitVec 10} (h : w &&& 0xFFC0#16 = hi ++ 0#6) : hi ++ w.field 10 15 = w :=
  append_low_of_and_eq h

/-- An address with a register or a group in its last digit is the rest of the address over that digit. -/
theorem digit_address {w : Word} {hi : BitVec 12} (h : w &&& 0xFFF0#16 = hi ++ 0#4) : hi ++ w.field 12 15 = w :=
  append_low_of_and_eq h

/-- An address of an inhibit function is the rest of the address over the I and E bits and two zeros. -/
theorem inhibit_address {w : Word} {hi : BitVec 12} (h : w &&& 0xFFF3#16 = hi ++ 0#4) :
    hi ++ BitVec.ofBool (w.bit 12) ++ BitVec.ofBool (w.bit 13) ++ 0#2 = w := by
  have hhigh : w.extractLsb' 4 12 = hi := by
    have := congrArg (BitVec.extractLsb' 4 12) h
    rw [BitVec.extractLsb'_and] at this
    exact (BitVec.and_allOnes.symm.trans this).trans BitVec.extractLsb'_append_eq_left
  have hlow : w.extractLsb' 0 2 = 0#2 := by
    have := congrArg (BitVec.extractLsb' 0 2) h
    rw [BitVec.extractLsb'_and] at this
    exact (BitVec.and_allOnes.symm.trans this).trans (BitVec.extractLsb'_append_eq_of_add_le (by decide))
  rw [ofBool_bit w 12 3 rfl, ofBool_bit w 13 2 rfl, ← hhigh, ← hlow]
  calc w.extractLsb' 4 12 ++ w.extractLsb' 3 1 ++ w.extractLsb' 2 1 ++ w.extractLsb' 0 2
      = w.extractLsb' 2 14 ++ w.extractLsb' 0 2 := by rw [field_append_field w 3 1 12, field_append_field w 2 1 13]
    _ = w := (field_append_field w 0 2 14).trans BitVec.extractLsb'_eq_self

/-! ### The tables, row by row -/

/-- A table selects by its first row, or by the rows after it. -/
theorem row_some {α : Type} {c : Prop} [Decidable c] {a f : α} {rest : Option α}
    (h : (if c then some a else rest) = some f) : (c ∧ a = f) ∨ rest = some f := by
  split at h
  case isTrue hc => exact .inl ⟨hc, Option.some.inj h⟩
  case isFalse => exact .inr h

/-- A table that selects nothing does not select by its first row. -/
theorem row_none {α : Type} {c : Prop} [Decidable c] {a : α} {rest : Option α}
    (h : (if c then some a else rest) = none) : ¬c ∧ rest = none := by
  split at h
  case isTrue => exact absurd h (by simp)
  case isFalse hc => exact ⟨hc, h⟩

/-! ### READ DIRECT -/

/-- The function that an RD address selects is well formed and has that address. -/
theorem ea_of_decodeRd {ea : Word} {f : RdFunction} (h : decodeRd ea = some f) :
    f.ea = ea ∧ f.instr.wellFormed = true := by
  unfold decodeRd at h
  obtain ⟨hregister, rfl⟩ | h := row_some h
  · exact ⟨register_address hregister, rfl⟩
  obtain ⟨hsio, rfl⟩ | h := row_some h
  · exact ⟨hsio.symm, rfl⟩
  obtain ⟨htio, rfl⟩ | h := row_some h
  · exact ⟨htio.symm, rfl⟩
  obtain ⟨htdv, rfl⟩ | h := row_some h
  · exact ⟨htdv.symm, rfl⟩
  obtain ⟨hhio, rfl⟩ | h := row_some h
  · exact ⟨hhio.symm, rfl⟩
  obtain ⟨haio, rfl⟩ | h := row_some h
  · exact ⟨haio.symm, rfl⟩
  obtain ⟨hswitches, rfl⟩ | h := row_some h
  · exact ⟨hswitches.symm, rfl⟩
  obtain ⟨hsave, rfl⟩ | h := row_some h
  · exact ⟨hsave.symm, rfl⟩
  obtain ⟨hreset, rfl⟩ | h := row_some h
  · exact ⟨inhibit_address hreset, rfl⟩
  obtain ⟨hset, rfl⟩ | h := row_some h
  · exact ⟨inhibit_address hset, rfl⟩
  obtain ⟨hdirect, rfl⟩ | h := row_some h
  · exact ⟨rfl, decide_eq_true hdirect⟩
  exact absurd h (by simp)

/-- Every RD function but direct I/O has an address of eight bits. -/
theorem RdFunction.ea_lt (f : RdFunction) : (∃ ea, f = .directIO ea) ∨ f.ea.toNat < 0x100 := by
  cases f with
  | directIO ea => exact .inl ⟨ea, rfl⟩
  | register n =>
    refine .inr ?_
    revert n
    decide
  | saveStatusResetInhibits i e | saveStatusSetInhibits i e => exact .inr (by cases i <;> cases e <;> decide)
  | sio | tio | tdv | hio | aio | dataSwitches | saveStatus => exact .inr (by decide)

/-- Every RD address of the external modes selects direct I/O with that address. -/
theorem decodeRd_external {ea : Word} (h : 0x2000 ≤ ea.toNat) : decodeRd ea = some (.directIO ea) := by
  cases hf : decodeRd ea with
  | none =>
    unfold decodeRd at hf
    iterate 10 replace hf := (row_none hf).2
    exact absurd h (row_none hf).1
  | some f =>
    obtain ⟨hea, -⟩ := ea_of_decodeRd hf
    obtain ⟨ea', rfl⟩ | hlt := f.ea_lt
    · exact hea ▸ rfl
    · rw [hea] at hlt
      omega

/-- A well-formed RD function is selected by its address. -/
theorem decodeRd_ea (f : RdFunction) (h : f.instr.wellFormed = true) : decodeRd f.ea = some f := by
  cases f with
  | directIO ea => exact decodeRd_external (of_decide_eq_true h)
  | register n => revert n; decide
  | saveStatusResetInhibits i e | saveStatusSetInhibits i e => cases i <;> cases e <;> rfl
  | sio | tio | tdv | hio | aio | dataSwitches | saveStatus => rfl

/-- The function bytes of Table 3 are the addresses of eight bits that select a function. -/
theorem isRdFunctionByte_eq (d : Byte) : isRdFunctionByte d = (decodeRd (d.setWidth 16)).isSome := by
  revert d; decide

/-! ### WRITE DIRECT -/

/-- The function that a WD address selects is well formed and has that address. -/
theorem ea_of_decodeWd {ea : Word} {f : WdFunction} (h : decodeWd ea = some f) :
    f.ea = ea ∧ f.instr.wellFormed = true := by
  unfold decodeWd at h
  obtain ⟨hregister, rfl⟩ | h := row_some h
  · exact ⟨register_address hregister, rfl⟩
  obtain ⟨htest, rfl⟩ | h := row_some h
  · exact ⟨register_address htest, rfl⟩
  obtain ⟨hprotection, rfl⟩ | h := row_some h
  · exact ⟨digit_address hprotection, rfl⟩
  obtain ⟨hload, rfl⟩ | h := row_some h
  · exact ⟨hload.symm, rfl⟩
  obtain ⟨hwait, rfl⟩ | h := row_some h
  · exact ⟨hwait.symm, rfl⟩
  obtain ⟨hexit, rfl⟩ | h := row_some h
  · exact ⟨hexit.symm, rfl⟩
  obtain ⟨hreset, rfl⟩ | h := row_some h
  · exact ⟨inhibit_address hreset, rfl⟩
  obtain ⟨hset, rfl⟩ | h := row_some h
  · exact ⟨inhibit_address hset, rfl⟩
  obtain ⟨h001, rfl⟩ | h := row_some h
  · exact ⟨digit_address h001, rfl⟩
  obtain ⟨h010, rfl⟩ | h := row_some h
  · exact ⟨digit_address h010, rfl⟩
  obtain ⟨h011, rfl⟩ | h := row_some h
  · exact ⟨digit_address h011, rfl⟩
  obtain ⟨h100, rfl⟩ | h := row_some h
  · exact ⟨digit_address h100, rfl⟩
  obtain ⟨h101, rfl⟩ | h := row_some h
  · exact ⟨digit_address h101, rfl⟩
  obtain ⟨h110, rfl⟩ | h := row_some h
  · exact ⟨digit_address h110, rfl⟩
  obtain ⟨h111, rfl⟩ | h := row_some h
  · exact ⟨digit_address h111, rfl⟩
  obtain ⟨hdisable, rfl⟩ | h := row_some h
  · exact ⟨hdisable.symm, rfl⟩
  obtain ⟨henable, rfl⟩ | h := row_some h
  · exact ⟨henable.symm, rfl⟩
  obtain ⟨htimer, rfl⟩ | h := row_some h
  · exact ⟨htimer.symm, rfl⟩
  obtain ⟨hdirect, rfl⟩ | h := row_some h
  · exact ⟨rfl, decide_eq_true hdirect⟩
  exact absurd h (by simp)

/-- The addresses of WD functions: direct I/O has those of the external modes, interrupt control and the Watchdog Timer
those of modes 0 and 1 from X'0100' on, the others addresses of eight bits. -/
theorem WdFunction.ea_lt (f : WdFunction) : (∃ ea, f = .directIO ea) ∨ f.ea.toNat < 0x2000 := by
  cases f with
  | directIO ea => exact .inl ⟨ea, rfl⟩
  | register n | testAndResetBit0 n =>
    refine .inr ?_
    revert n
    decide
  | protectionRegister g | interruptControl001 g | interruptControl010 g | interruptControl011 g
  | interruptControl100 g | interruptControl101 g | interruptControl110 g | interruptControl111 g =>
    refine .inr ?_
    revert g
    decide
  | resetInhibits i e | setInhibits i e => exact .inr (by cases i <;> cases e <;> decide)
  | loadStatus | wait | exit | watchdogDisable | watchdogEnable | watchdogResetTimer => exact .inr (by decide)

/-- Every WD address of the external modes selects direct I/O with that address. -/
theorem decodeWd_external {ea : Word} (h : 0x2000 ≤ ea.toNat) : decodeWd ea = some (.directIO ea) := by
  cases hf : decodeWd ea with
  | none =>
    unfold decodeWd at hf
    iterate 18 replace hf := (row_none hf).2
    exact absurd h (row_none hf).1
  | some f =>
    obtain ⟨hea, -⟩ := ea_of_decodeWd hf
    obtain ⟨ea', rfl⟩ | hlt := f.ea_lt
    · exact hea ▸ rfl
    · rw [hea] at hlt
      omega

/-- A well-formed WD function is selected by its address. -/
theorem decodeWd_ea (f : WdFunction) (h : f.instr.wellFormed = true) : decodeWd f.ea = some f := by
  cases f with
  | directIO ea => exact decodeWd_external (of_decide_eq_true h)
  | register n | testAndResetBit0 n => revert n; decide
  | protectionRegister g | interruptControl001 g | interruptControl010 g | interruptControl011 g
  | interruptControl100 g | interruptControl101 g | interruptControl110 g | interruptControl111 g => revert g; decide
  | resetInhibits i e | setInhibits i e => cases i <;> cases e <;> rfl
  | loadStatus | wait | exit | watchdogDisable | watchdogEnable | watchdogResetTimer => rfl

/-- The function bytes of Table 4 are the addresses of eight bits that select a function. -/
theorem isWdFunctionByte_eq (d : Byte) : isWdFunctionByte d = (decodeWd (d.setWidth 16)).isSome := by
  revert d; decide

/-- Settles O3: each direction by the rows of the two tables. -/
theorem directControlAddressesAgree : Obligations.DirectControlAddressesAgree :=
  ⟨decodeRd_ea, fun _ _ => ea_of_decodeRd, decodeWd_ea, fun _ _ => ea_of_decodeWd⟩

end Sys2Proof
end

section
/-! Decoding and encoding of instruction words (30_encoding.md R99, R100): the RD and WD words, the copy words, and then
each word by its operation code. -/

namespace Sys2Proof

/-! ### RD and WD words -/

/-- An RD or WD word with R, I, X and S all 0 is eight bits over the displacement. -/
theorem encodeMemRef_direct (d : Byte) :
    encodeMemRef 0x1#4 ⟨false, false, false, false, d⟩ = some (0x10#8 ++ d) ∧
    encodeMemRef 0x0#4 ⟨false, false, false, false, d⟩ = some (0x00#8 ++ d) := by
  revert d; decide

/-- An address of eight bits is its right byte. -/
theorem setWidth_lo {w : Word} (h : w.toNat < 0x100) : w.lo.setWidth 16 = w := by
  refine BitVec.eq_of_toNat_eq ?_
  simp only [Word.lo, BitVec.toNat_setWidth, BitVec.extractLsb'_toNat]
  omega

theorem lo_setWidth (d : Byte) : Word.lo (d.setWidth 16) = d := by
  refine BitVec.eq_of_toNat_eq ?_
  have := d.isLt
  simp only [Word.lo, BitVec.toNat_setWidth, BitVec.extractLsb'_toNat]
  omega

/-- The RD functions that have a word are those whose address is its right byte. -/
theorem encode_rdFunction_iff {f : RdFunction} {w : Word} :
    encode f.instr = some w ↔ f.ea.toNat < 0x100 ∧ f.instr.wellFormed = true ∧ encodeRd f = some w := by
  have hdirect := f.ea_lt
  cases f with
  | directIO ea =>
    refine ⟨nofun, fun ⟨hlt, hwf, _⟩ => ?_⟩
    have hext : 0x2000 ≤ ea.toNat := of_decide_eq_true hwf
    exact absurd (show ea.toNat < 0x100 from hlt) (by omega)
  | _ => exact ⟨fun h => ⟨hdirect.resolve_left nofun, rfl, h⟩, fun h => h.2.2⟩

/-- The WD functions that have a word are those whose address is its right byte. -/
theorem encode_wdFunction_iff {f : WdFunction} {w : Word} :
    encode f.instr = some w ↔ f.ea.toNat < 0x100 ∧ f.instr.wellFormed = true ∧ encodeWd f = some w := by
  cases f with
  | register n | testAndResetBit0 n => exact ⟨fun h => ⟨by clear h; revert n; decide, rfl, h⟩, fun h => h.2.2⟩
  | protectionRegister r => exact ⟨fun h => ⟨by clear h; revert r; decide, rfl, h⟩, fun h => h.2.2⟩
  | resetInhibits i e | setInhibits i e =>
    exact ⟨fun h => ⟨by cases i <;> cases e <;> decide, rfl, h⟩, fun h => h.2.2⟩
  | loadStatus | wait | exit => exact ⟨fun h => ⟨by decide, rfl, h⟩, fun h => h.2.2⟩
  | interruptControl001 g | interruptControl010 g | interruptControl011 g | interruptControl100 g
  | interruptControl101 g | interruptControl110 g | interruptControl111 g =>
    refine ⟨nofun, fun h => absurd h.1 ?_⟩
    clear h
    revert g
    decide
  | watchdogDisable | watchdogEnable | watchdogResetTimer => exact ⟨nofun, fun h => absurd h.1 (by decide)⟩
  | directIO ea =>
    refine ⟨nofun, fun ⟨hlt, hwf, _⟩ => ?_⟩
    have hext : 0x2000 ≤ ea.toNat := of_decide_eq_true hwf
    exact absurd (show ea.toNat < 0x100 from hlt) (by omega)

/-- The function whose byte an RD word with R, I, X and S all 0 holds is the word's row. -/
theorem decodeRdWord_function {f : RdFunction} (hlt : f.ea.toNat < 0x100) (hwf : f.instr.wellFormed = true) :
    decodeRdWord ⟨false, false, false, false, f.ea.lo⟩ = f.instr := by
  simp [decodeRdWord, setWidth_lo hlt, decodeRd_ea f hwf]

/-- The function whose byte a WD word with R, I, X and S all 0 holds is the word's row. -/
theorem decodeWdWord_function {f : WdFunction} (hlt : f.ea.toNat < 0x100) (hwf : f.instr.wellFormed = true) :
    decodeWdWord ⟨false, false, false, false, f.ea.lo⟩ = f.instr := by
  simp [decodeWdWord, setWidth_lo hlt, decodeWd_ea f hwf]

/-- A well-formed generic RD keeps its own row. -/
theorem decodeRdWord_generic {m : MemRef} (h : (Instr.rd m).wellFormed = true) : decodeRdWord m = .rd m := by
  obtain ⟨r, i, x, s, d⟩ := m
  by_cases hdirect : (r || i || x || s) = true
  · exact if_pos hdirect
  · have hbyte : isRdFunctionByte d = false := by simp_all [Instr.wellFormed, MemRef.direct]
    have hnone : decodeRd (d.setWidth 16) = none := by simpa [isRdFunctionByte_eq] using hbyte
    simp [decodeRdWord, hnone]

/-- A well-formed generic WD keeps its own row. -/
theorem decodeWdWord_generic {m : MemRef} (h : (Instr.wd m).wellFormed = true) : decodeWdWord m = .wd m := by
  obtain ⟨r, i, x, s, d⟩ := m
  by_cases hdirect : (r || i || x || s) = true
  · exact if_pos hdirect
  · have hbyte : isWdFunctionByte d = false := by simp_all [Instr.wellFormed, MemRef.direct]
    have hnone : decodeWd (d.setWidth 16) = none := by simpa [isWdFunctionByte_eq] using hbyte
    simp [decodeWdWord, hnone]

/-- What an RD word decodes to is well formed and has that word. -/
theorem decodeRdWord_encodes {m : MemRef} {w : Word} (h : encodeMemRef 0x1#4 m = some w) :
    (decodeRdWord m).wellFormed = true ∧ encode (decodeRdWord m) = some w := by
  by_cases hwf : (Instr.rd m).wellFormed = true
  case pos => rw [decodeRdWord_generic hwf]; exact ⟨hwf, h⟩
  case neg =>
    obtain ⟨r, i, x, s, d⟩ := m
    obtain ⟨⟨rfl, rfl, rfl, rfl⟩, hbyte⟩ :
        (r = false ∧ i = false ∧ x = false ∧ s = false) ∧ isRdFunctionByte d = true := by
      simpa [Instr.wellFormed, MemRef.direct, and_assoc] using hwf
    rw [isRdFunctionByte_eq, Option.isSome_iff_exists] at hbyte
    obtain ⟨f, hf⟩ := hbyte
    obtain ⟨hea, hfwf⟩ := ea_of_decodeRd hf
    rw [show decodeRdWord ⟨false, false, false, false, d⟩ = f.instr by simp [decodeRdWord, hf]]
    refine ⟨hfwf, encode_rdFunction_iff.2 ⟨?short, hfwf, ?word⟩⟩
    case short => rw [hea, BitVec.toNat_setWidth]; omega
    case word => rw [← h, (encodeMemRef_direct d).1, encodeRd, hea, lo_setWidth]

/-- What a WD word decodes to is well formed and has that word. -/
theorem decodeWdWord_encodes {m : MemRef} {w : Word} (h : encodeMemRef 0x0#4 m = some w) :
    (decodeWdWord m).wellFormed = true ∧ encode (decodeWdWord m) = some w := by
  by_cases hwf : (Instr.wd m).wellFormed = true
  case pos => rw [decodeWdWord_generic hwf]; exact ⟨hwf, h⟩
  case neg =>
    obtain ⟨r, i, x, s, d⟩ := m
    obtain ⟨⟨rfl, rfl, rfl, rfl⟩, hbyte⟩ :
        (r = false ∧ i = false ∧ x = false ∧ s = false) ∧ isWdFunctionByte d = true := by
      simpa [Instr.wellFormed, MemRef.direct, and_assoc] using hwf
    rw [isWdFunctionByte_eq, Option.isSome_iff_exists] at hbyte
    obtain ⟨f, hf⟩ := hbyte
    obtain ⟨hea, hfwf⟩ := ea_of_decodeWd hf
    rw [show decodeWdWord ⟨false, false, false, false, d⟩ = f.instr by simp [decodeWdWord, hf]]
    refine ⟨hfwf, encode_wdFunction_iff.2 ⟨?short, hfwf, ?word⟩⟩
    case short => rw [hea, BitVec.toNat_setWidth]; omega
    case word => rw [← h, (encodeMemRef_direct d).2, encodeWd, hea, lo_setWidth]

/-! ### Branch and copy words -/

/-- A branch word decodes to the row of its condition, which is well formed and has that word. -/
theorem decodeBranch_encodes (w : Word) : (decodeBranch w).wellFormed = true ∧
    encode (decodeBranch w) = encodeBranch (w.field 4 6) (w.field 7 15) := by
  unfold decodeBranch
  generalize w.field 4 6 = condition
  have every : ∀ b : BitVec 3, b = 0#3 ∨ b = 1#3 ∨ b = 2#3 ∨ b = 3#3 ∨ b = 4#3 ∨ b = 5#3 ∨ b = 6#3 ∨ b = 7#3 := by
    decide
  obtain rfl | rfl | rfl | rfl | rfl | rfl | rfl | rfl := every condition <;> exact ⟨rfl, rfl⟩

/-- A copy word decodes to the row of its setting, which is well formed and has that word. -/
theorem decodeCopy_encodes (w : Word) : (decodeCopy w).wellFormed = true ∧ encode (decodeCopy w) =
    encodeCopy (CopyOp.ofBits (w.field 4 5)) (w.bit 6) (w.bit 7) (w.bit 8) (CopyOperands.ofWord w) := by
  unfold decodeCopy
  generalize CopyOp.ofBits (w.field 4 5) = op, w.bit 6 = ac, w.bit 7 = ai, w.bit 8 = cd
  cases op <;> cases ac <;> cases ai <;> cases cd <;> exact ⟨rfl, rfl⟩

/-! ### Every word -/

/-- A word of the RD or WD function rows decodes to its row. -/
theorem decodeWord_rdFunction {f : RdFunction} {w : Word} (h : encode f.instr = some w) : decodeWord w = f.instr := by
  obtain ⟨hlt, hwf, hw⟩ := encode_rdFunction_iff.1 h
  obtain ⟨hop, hm⟩ := encodeMemRef_eq_some_iff.1 ((encodeMemRef_direct f.ea.lo).1.trans hw)
  simp [decodeWord, hop, hm, decodeRdWord_function hlt hwf]

theorem decodeWord_wdFunction {f : WdFunction} {w : Word} (h : encode f.instr = some w) : decodeWord w = f.instr := by
  obtain ⟨hlt, hwf, hw⟩ := encode_wdFunction_iff.1 h
  obtain ⟨hop, hm⟩ := encodeMemRef_eq_some_iff.1 ((encodeMemRef_direct f.ea.lo).2.trans hw)
  simp [decodeWord, hop, hm, decodeWdWord_function hlt hwf]

/-- A branch word decodes to the row of its condition. -/
theorem decodeWord_branch {condition : BitVec 3} {disp : BitVec 9} {w : Word}
    (h : encodeBranch condition disp = some w) : decodeWord w = decodeBranch w := by
  obtain ⟨hop, -, -⟩ := encodeBranch_eq_some_iff.1 h
  simp [decodeWord, hop]

/-- A copy word decodes to the row of its setting. -/
theorem decodeWord_copy {op : CopyOp} {ac ai cd : Bool} {f : CopyOperands} {w : Word}
    (h : encodeCopy op ac ai cd f = some w) : decodeWord w = decodeCopy w := by
  obtain ⟨hop, -⟩ := encodeCopy_eq_some_iff.1 h
  simp [decodeWord, hop]

/-- Settles O1: the fields of an encoded word are those encoded, and select the instruction's row. -/
theorem decodeUndoesEncode : Obligations.DecodeUndoesEncode := by
  intro i w hwf hw
  cases i with
  | rd m =>
    obtain ⟨hop, hm⟩ := encodeMemRef_eq_some_iff.1 hw
    simp [decodeWord, hop, hm, decodeRdWord_generic hwf]
  | wd m =>
    obtain ⟨hop, hm⟩ := encodeMemRef_eq_some_iff.1 hw
    simp [decodeWord, hop, hm, decodeWdWord_generic hwf]
  | shift m | mul m | b m | div m | lda m | and m | add m | sub m | ldx m | cp m | sta m | im m =>
    obtain ⟨hop, hm⟩ := encodeMemRef_eq_some_iff.1 hw
    simp [decodeWord, hop, hm]
  | ldxExitForm m => exact absurd hw nofun
  | bno d | bnc d | baz d | bix d | bxno d | bxnc d | ben d | ban d =>
    obtain ⟨-, hcondition, hdisp⟩ := encodeBranch_eq_some_iff.1 hw
    rw [decodeWord_branch hw]
    simp [decodeBranch, hcondition, hdisp]
  | copy f =>
    obtain ⟨-, hop, hac, hai, hcd, hf⟩ := encodeCopy_eq_some_iff.1 hw
    obtain ⟨op, ac, ai, cd, operands⟩ := f
    rw [decodeWord_copy hw]
    simp only [decodeCopy, hop, hac, hai, hcd, hf]
    cases op <;> cases ac <;> cases ai <;> cases cd <;> simp_all [Instr.wellFormed, isNamedCopySetting]
  | rand f | randi f | randc f | ror f | rcpy f | rori f | rcpyi f | rorc f | rcpyc f | reor f | reori f | reorc f
  | radd f | raddi f | raddc f =>
    obtain ⟨-, hop, hac, hai, hcd, hf⟩ := encodeCopy_eq_some_iff.1 hw
    rw [decodeWord_copy hw]
    simp only [decodeCopy, hop, hac, hai, hcd, hf]
  | sio => exact decodeWord_rdFunction (f := .sio) hw
  | tio => exact decodeWord_rdFunction (f := .tio) hw
  | tdv => exact decodeWord_rdFunction (f := .tdv) hw
  | hio => exact decodeWord_rdFunction (f := .hio) hw
  | aio => exact decodeWord_rdFunction (f := .aio) hw
  | rdRegister n => exact decodeWord_rdFunction (f := .register n) hw
  | rdDataSwitches => exact decodeWord_rdFunction (f := .dataSwitches) hw
  | rdSaveStatus => exact decodeWord_rdFunction (f := .saveStatus) hw
  | rdSaveStatusResetInhibits i e => exact decodeWord_rdFunction (f := .saveStatusResetInhibits i e) hw
  | rdSaveStatusSetInhibits i e => exact decodeWord_rdFunction (f := .saveStatusSetInhibits i e) hw
  | wdRegister n => exact decodeWord_wdFunction (f := .register n) hw
  | wdTestAndResetBit0 n => exact decodeWord_wdFunction (f := .testAndResetBit0 n) hw
  | wdProtectionRegister r => exact decodeWord_wdFunction (f := .protectionRegister r) hw
  | wdLoadStatus => exact decodeWord_wdFunction (f := .loadStatus) hw
  | wdWait => exact decodeWord_wdFunction (f := .wait) hw
  | wdExit => exact decodeWord_wdFunction (f := .exit) hw
  | wdResetInhibits i e => exact decodeWord_wdFunction (f := .resetInhibits i e) hw
  | wdSetInhibits i e => exact decodeWord_wdFunction (f := .setInhibits i e) hw
  | rdDirectIO ea | wdInterruptControl001 g | wdInterruptControl010 g | wdInterruptControl011 g
  | wdInterruptControl100 g | wdInterruptControl101 g | wdInterruptControl110 g | wdInterruptControl111 g
  | wdWatchdogDisable | wdWatchdogEnable | wdWatchdogResetTimer | wdDirectIO ea => exact absurd hw nofun

/-- Settles O2, by the operation code of the word. -/
theorem encodeUndoesDecode : Obligations.EncodeUndoesDecode := by
  intro w
  have memRef {op : BitVec 4} (hop : (w.field 0 3).toNat = op.toNat) : encodeMemRef op (MemRef.ofWord w) = some w :=
    encodeMemRef_eq_some_iff.2 ⟨BitVec.eq_of_toNat_eq hop, rfl⟩
  unfold decodeWord
  dsimp only
  split
  case h_1 hop => exact decodeWdWord_encodes (memRef hop)
  case h_2 hop => exact decodeRdWord_encodes (memRef hop)
  case h_7 hop =>
    obtain ⟨hwf, hword⟩ := decodeBranch_encodes w
    exact ⟨hwf, hword.trans (encodeBranch_eq_some_iff.2 ⟨BitVec.eq_of_toNat_eq hop, rfl, rfl⟩)⟩
  case h_8 hop =>
    obtain ⟨hwf, hword⟩ := decodeCopy_encodes w
    exact ⟨hwf, hword.trans (encodeCopy_eq_some_iff.2 ⟨BitVec.eq_of_toNat_eq hop, rfl, rfl, rfl, rfl, rfl⟩)⟩
  case h_16 =>
    have hop : (w.field 0 3).toNat = 15 := by
      have hlt : (w.field 0 3).toNat < 16 := (w.field 0 3).isLt
      simp only [imp_false] at *
      omega
    exact ⟨rfl, memRef (op := 0xF#4) hop⟩
  all_goals exact ⟨rfl, memRef (by assumption)⟩

end Sys2Proof
end

section
/-! What an instruction that goes on has come to (40_memory_reference.md R120): it was stopped, by a parity error or by a
protection rule, or its own effect is done. The effect of every instruction, one lemma for each way of reading operands. -/

namespace Sys2Proof.Machine

open Sys2Proof

/-- `t` is `s` with its instruction stopped: aborted by a parity error, or refused by a protection rule. -/
def State.stopped (s t : State) : Prop :=
  (∃ bad, t = s.parityAbort bad) ∨ t = s.refuse protectionLevel ∨ t = s.followProgram.refuse protectionLevel

/-- A parity abort changes what any instruction may change. -/
theorem State.parityAbort_carried (s : State) (bad : Word) : s.parityAbort bad = s.carried (s.parityAbort bad) := by
  unfold State.parityAbort State.trigger
  split
  case h_1 => rfl
  case h_2 => split <;> rfl

/-- A refusal changes what any instruction may change. -/
theorem State.refuse_carried (s : State) (level : Level) : s.refuse level = s.carried (s.refuse level) := by
  unfold State.refuse State.trigger
  split <;> rfl

/-- A stopped instruction changes what any instruction may change. -/
theorem State.stopped_carried {s t : State} (h : s.stopped t) : t = s.carried t := by
  obtain ⟨bad, rfl⟩ | rfl | rfl := h
  · exact s.parityAbort_carried bad
  · exact s.refuse_carried _
  · exact s.followProgram.refuse_carried _

/-- A stopped instruction leaves P at its own address. -/
theorem State.stopped_p {s t : State} (h : s.stopped t) : t.p = s.regH := by
  obtain ⟨bad, rfl⟩ | rfl | rfl := h
  · unfold State.parityAbort
    split <;> simp
  · exact s.refuse_p _
  · exact s.followProgram.refuse_p _

/-- A stopped instruction changes no enable flip-flop. -/
theorem State.stopped_enabled {s t : State} (h : s.stopped t) (k : Level) :
    (t.level k).enabled = (s.level k).enabled := by
  obtain ⟨bad, rfl⟩ | rfl | rfl := h
  · unfold State.parityAbort
    split
    case h_1 => rfl
    case h_2 => exact State.trigger_enabled _ _ k
  · exact State.trigger_enabled _ _ k
  · exact State.trigger_enabled _ _ k

/-- An instruction in its frame goes on stopped, or admitted and with its effect done. -/
theorem State.perform_cases {s t : State} {check : Check} {effect : State → Effect}
    (h : s.perform check effect = .next t) :
    s.stopped t ∨ s.admits check = true ∧ effect s.followProgram = .done t := by
  obtain ⟨-, rfl⟩ | ⟨-, -, rfl⟩ | ⟨-, bad, -, rfl⟩ | ⟨ha, hdone⟩ := State.perform_next h
  · exact .inl (.inr (.inl rfl))
  · exact .inl (.inr (.inr rfl))
  · exact .inl (.inl ⟨bad, rfl⟩)
  · exact .inr ⟨ha, hdone⟩

/-- An instruction whose effect is always done goes on stopped, or admitted and in the state of its effect. -/
theorem State.perform_done_cases {s t : State} {check : Check} {effect : State → State}
    (h : s.perform check (fun s1 => .done (effect s1)) = .next t) :
    s.stopped t ∨ s.admits check = true ∧ t = effect s.followProgram := by
  obtain hstop | ⟨ha, hdone⟩ := State.perform_cases h
  · exact .inl hstop
  · injection hdone with hdone
    exact .inr ⟨ha, hdone.symm⟩

/-- An instruction with an effective address goes on stopped, or admitted and with its effect done. -/
theorem State.withEffectiveAddress_cases {s t : State} {m : MemRef} {check : Word → Check}
    {effect : Word → State → Effect}
    (h : s.withEffectiveAddress m (fun ea => s.perform (check ea) (effect ea)) = .next t) :
    s.stopped t ∨ ∃ ea, s.effectiveAddress m = .ok ea ∧ s.admits (check ea) = true ∧
      effect ea s.followProgram = .done t := by
  obtain ⟨bad, -, rfl⟩ | ⟨ea, hea, hnext⟩ := State.withEffectiveAddress_next h
  · exact .inl (.inl ⟨bad, rfl⟩)
  · obtain hstop | ⟨ha, hdone⟩ := State.perform_cases hnext
    · exact .inl hstop
    · exact .inr ⟨ea, hea, ha, hdone⟩

/-- An instruction that reads its effective word goes on stopped, or in the state of its effect on that word. -/
theorem State.withEffectiveWord_cases {s t : State} {m : MemRef} {effect : State → Word → State}
    (h : s.withEffectiveWord m effect = .next t) : s.stopped t ∨ ∃ w, t = effect s.followProgram w := by
  obtain hstop | ⟨ea, -, -, hdone⟩ := State.withEffectiveAddress_cases (check := fun _ => .plain) h
  · exact .inl hstop
  · obtain ⟨w, -, hw⟩ := State.withOperand_done hdone
    injection hw with hw
    exact .inr ⟨w, hw.symm⟩

/-! ### The instructions with more than one outcome -/

/-- RD goes on stopped, or as the row its effective address selects. -/
theorem exec_rd_cases {s t : State} {m : MemRef} (h : exec (.rd m) s = .next t) :
    s.stopped t ∨ ∃ f : RdFunction, exec f.instr s = .next t := by
  obtain ⟨bad, -, rfl⟩ | ⟨ea, -, hnext⟩ := State.withEffectiveAddress_next h
  · exact .inl (.inl ⟨bad, rfl⟩)
  · split at hnext
    case h_1 f _ => exact .inr ⟨f, by cases f <;> exact hnext⟩
    case h_2 => exact .inl ((State.perform_cases hnext).resolve_right nofun)

/-- WD goes on stopped, or as the row its effective address selects. -/
theorem exec_wd_cases {s t : State} {m : MemRef} (h : exec (.wd m) s = .next t) :
    s.stopped t ∨ ∃ f : WdFunction, exec f.instr s = .next t := by
  obtain ⟨bad, -, rfl⟩ | ⟨ea, -, hnext⟩ := State.withEffectiveAddress_next h
  · exact .inl (.inl ⟨bad, rfl⟩)
  · split at hnext
    case h_1 f _ => exact .inr ⟨f, by cases f <;> exact hnext⟩
    case h_2 => exact .inl ((State.perform_cases hnext).resolve_right nofun)

/-- LDX is its exit form while the exit condition is set, and a load of X1 otherwise. -/
theorem exec_ldx_eq (m : MemRef) (s : State) : exec (.ldx m) s =
    if s.exitCondition then exec (.ldxExitForm m) s else s.withEffectiveWord m fun s1 w => { s1 with x1 := w } := rfl

/-- The exit form goes on stopped, or with the environment restored from two words of memory. -/
theorem exec_ldxExitForm_cases {s t : State} {m : MemRef} (h : exec (.ldxExitForm m) s = .next t) :
    s.stopped t ∨ ∃ w0 w1, t = s.followProgram.leave w0 w1 := by
  obtain hstop | ⟨ea, -, -, hdone⟩ := State.withEffectiveAddress_cases (check := fun _ => .plain) h
  · exact .inl hstop
  · obtain ⟨w0, -, hdone⟩ := State.withOperand_done hdone
    obtain ⟨w1, -, hdone⟩ := State.withOperand_done hdone
    injection hdone with hdone
    exact .inr ⟨w0, w1, hdone.symm⟩

/-- MUL goes on stopped, refused for the missing option, or with its product. -/
theorem exec_mul_cases {s t : State} {m : MemRef} (h : exec (.mul m) s = .next t) :
    s.stopped t ∨ t = s.followProgram.refuse multiplyLevel ∨ ∃ w, t = s.followProgram.multiplied w := by
  obtain hstop | ⟨ea, -, -, hdone⟩ := State.withEffectiveAddress_cases (check := fun _ => .plain) h
  · exact .inl hstop
  · split at hdone
    case isTrue =>
      obtain ⟨w, -, hdone⟩ := State.withOperand_done hdone
      injection hdone with hdone
      exact .inr (.inr ⟨w, hdone.symm⟩)
    case isFalse =>
      injection hdone with hdone
      exact .inr (.inl hdone.symm)

/-- DIV goes on stopped, refused for the missing option, or with its quotient. -/
theorem exec_div_cases {s t : State} {m : MemRef} (h : exec (.div m) s = .next t) :
    s.stopped t ∨ t = s.followProgram.refuse divideLevel ∨ ∃ w, t = divideEffect s.followProgram w := by
  obtain hstop | ⟨ea, -, -, hdone⟩ := State.withEffectiveAddress_cases (check := fun _ => .plain) h
  · exact .inl hstop
  · split at hdone
    case isTrue =>
      obtain ⟨w, -, hdone⟩ := State.withOperand_done hdone
      injection hdone with hdone
      exact .inr (.inr ⟨w, hdone.symm⟩)
    case isFalse =>
      injection hdone with hdone
      exact .inr (.inl hdone.symm)

/-- STA goes on stopped, or with A stored at an effective address where rule 3 admits it. -/
theorem exec_sta_cases {s t : State} {m : MemRef} (h : exec (.sta m) s = .next t) :
    s.stopped t ∨ ∃ ea, s.effectiveAddress m = .ok ea ∧ s.admits (.store ea) = true ∧
      t = s.followProgram.writeWord ea s.a := by
  obtain hstop | ⟨ea, hea, ha, hdone⟩ := State.withEffectiveAddress_cases (check := .store) h
  · exact .inl hstop
  · injection hdone with hdone
    exact .inr ⟨ea, hea, ha, hdone.symm⟩

/-- IM goes on stopped, or with a word incremented at an effective address where rule 3 admits it. -/
theorem exec_im_cases {s t : State} {m : MemRef} (h : exec (.im m) s = .next t) :
    s.stopped t ∨ ∃ ea w, s.effectiveAddress m = .ok ea ∧ s.admits (.store ea) = true ∧
      t = s.followProgram.incremented ea w := by
  obtain hstop | ⟨ea, hea, ha, hdone⟩ := State.withEffectiveAddress_cases (check := .store) h
  · exact .inl hstop
  · obtain ⟨w, -, hdone⟩ := State.withOperand_done hdone
    injection hdone with hdone
    exact .inr ⟨ea, w, hea, ha, hdone.symm⟩

/-- B goes on stopped, or with P at its effective address. -/
theorem exec_b_cases {s t : State} {m : MemRef} (h : exec (.b m) s = .next t) :
    s.stopped t ∨ ∃ ea, t = { s.followProgram with p := ea } := by
  obtain hstop | ⟨ea, -, -, hdone⟩ := State.withEffectiveAddress_cases (check := fun _ => .plain) h
  · exact .inl hstop
  · injection hdone with hdone
    exact .inr ⟨ea, hdone.symm⟩

/-- S goes on stopped, or with the shift of its effective address. -/
theorem exec_shift_cases {s t : State} {m : MemRef} (h : exec (.shift m) s = .next t) :
    s.stopped t ∨ ∃ ea, t = shiftEffect s.followProgram ea := by
  obtain hstop | ⟨ea, -, -, hdone⟩ := State.withEffectiveAddress_cases (check := fun _ => .plain) h
  · exact .inl hstop
  · injection hdone with hdone
    exact .inr ⟨ea, hdone.symm⟩

/-- An I/O instruction for a device number is done with no device, or with the device of that number. -/
theorem State.withDevice_done {s t : State} {k : Device → State} (h : s.withDevice k = .done t) :
    t = s.notRecognized ∨ ∃ d, s.device s.deviceNumber = some d ∧ t = k d := by
  unfold State.withDevice at h
  split at h
  case h_1 =>
    injection h with h
    exact .inl h.symm
  case h_2 d hd =>
    split at h
    case isTrue =>
      injection h with h
      exact .inr ⟨d, hd, h.symm⟩
    case isFalse => exact absurd h nofun

end Sys2Proof.Machine
end

section
/-! The invariant in parts, and the state operations that keep them: memory, the interrupt levels, the program status. -/

namespace Sys2Proof.Machine

open Sys2Proof

/-! ### The parts of the invariant -/

/-- Memory is canonical and within the words that exist (20_memory.md R63). -/
def MemoryInv (cfg : Config) (mem : Memory) : Prop :=
  mem.wf = true ∧ ∀ cell ∈ mem, cell.1 < 2 * memWords cfg

/-- What the invariant asks of one level: a counter is never active (60_exceptions.md R292), an installed override level
always armed or further and enabled (R273), and a level that is not installed has no state (R276). -/
structure CellInv (cfg : Config) (level : Level) (cell : LevelCell) : Prop where
  counter : isCounter level = true → cell.state ≠ .active
  override : overrideInstalled cfg level = true → cell.state ≠ .disarmed ∧ cell.enabled = true
  uninstalled : installed cfg level = false → cell.state = .disarmed ∧ cell.enabled = false

/-- What the invariant asks of the devices (44_io.md R231, R247). -/
structure DevicesInv (devices : List Device) : Prop where
  distinct : (devices.map fun d => d.number).Nodup
  single : ∀ d ∈ devices, isMultiunit d.number = false → d.controller = d.condition
  shared : ∀ d ∈ devices, ∀ k ∈ devices, sameController d.number k.number = true → d.controller = k.controller

/-- The invariant without its two parts that an operation inside a step may break: an acknowledgment may arrive before
the held command takes it, and a single step from IDLE may set WFF before IDLE resets it. -/
structure State.Core (s : State) : Prop where
  memory : MemoryInv s.cfg s.mem
  levels : ∀ level : Level, CellInv s.cfg level (s.level level)
  pp : s.pp = true → s.cfg.hasProtection = true
  pr : s.cfg.hasProtection = false → s.pr = Vector.replicate 16 0
  watchdog : s.wdEnabled = true → s.cfg.hasWatchdog = true
  dio : s.dio.isSome = true → s.cfg.hasDio = true ∧ s.powered = true
  devices : DevicesInv s.devices

/-- A held direct I/O command has no acknowledgment waiting (43_direct_control.md R222). -/
def State.Unanswered (s : State) : Prop :=
  s.dio.isSome = true → s.dioReplies = []

/-- COMPUTE in IDLE keeps WFF reset (10_state.md R34). -/
def State.IdleNotWaiting (s : State) : Prop :=
  s.idle = true → s.wff = false

theorem isCounter_iff {level : Level} : isCounter level = true ↔ ∃ k : Fin 4, level = counterLevel k := by
  constructor
  · intro h
    exact ⟨⟨level.val, of_decide_eq_true h⟩, rfl⟩
  · rintro ⟨k, rfl⟩
    exact decide_eq_true k.isLt

/-- The invariant is its parts. -/
theorem State.inv_iff {s : State} : s.Inv ↔ s.Core ∧ s.Unanswered ∧ s.IdleNotWaiting := by
  constructor
  · intro h
    refine ⟨⟨⟨h.mem_canonical, h.mem_exists⟩, fun level => ⟨fun hc => ?_, h.override_armed level,
      h.uninstalled_quiet level⟩, h.pp_option, h.pr_option, h.watchdog_option, fun hd => ⟨h.dio_option hd, h.dio_powered hd⟩,
      ⟨h.devices_distinct, h.single_controller, h.shared_controller⟩⟩, h.dio_unanswered, h.idle_not_waiting⟩
    obtain ⟨k, rfl⟩ := isCounter_iff.1 hc
    exact h.counters_inactive k
  · rintro ⟨⟨⟨hcanonical, hexists⟩, hlevels, hpp, hpr, hwatchdog, hdio, ⟨hdistinct, hsingle, hshared⟩⟩, hanswer, hidle⟩
    exact ⟨hcanonical, hexists, fun k => (hlevels _).counter (isCounter_iff.2 ⟨k, rfl⟩), fun level => (hlevels level).override,
      fun level => (hlevels level).uninstalled, hpp, hpr, fun hd => (hdio hd).1, hwatchdog, hanswer, hidle,
      fun hd => (hdio hd).2, hdistinct, hsingle, hshared⟩

/-! ### Operations that keep the parts -/

/-- `t` comes from `s` by an operation that keeps the core of the invariant and the connector's rule, and that changes
neither the configuration, nor the power, nor whether COMPUTE acts as RUN. -/
structure State.Keeps (s t : State) : Prop where
  core : s.Core → t.Core
  unanswered : s.Unanswered → t.Unanswered
  cfg : t.cfg = s.cfg
  powered : t.powered = s.powered
  computeRuns : t.computeRuns = s.computeRuns

theorem State.Keeps.trans {s t u : State} (h : s.Keeps t) (k : t.Keeps u) : s.Keeps u :=
  ⟨k.core ∘ h.core, k.unanswered ∘ h.unanswered, k.cfg.trans h.cfg, k.powered.trans h.powered,
    k.computeRuns.trans h.computeRuns⟩

theorem State.Keeps.idle {s t : State} (h : s.Keeps t) : t.idle = s.idle := by
  simp only [State.idle, h.powered, h.computeRuns]

/-- An operation that changes only what the invariant does not speak of. -/
theorem State.Keeps.of_eq {s t : State} (cfg : t.cfg = s.cfg := by rfl) (mem : t.mem = s.mem := by rfl)
    (levels : t.levels = s.levels := by rfl) (pp : t.pp = s.pp := by rfl) (pr : t.pr = s.pr := by rfl)
    (wdEnabled : t.wdEnabled = s.wdEnabled := by rfl) (dio : t.dio = s.dio := by rfl)
    (dioReplies : t.dioReplies = s.dioReplies := by rfl) (devices : t.devices = s.devices := by rfl)
    (powered : t.powered = s.powered := by rfl) (computeRuns : t.computeRuns = s.computeRuns := by rfl) :
    s.Keeps t := by
  have hlevel : ∀ level, t.level level = s.level level := fun level => by simp only [State.level, levels]
  refine ⟨fun h => ⟨?_, ?_, ?_, ?_, ?_, ?_, ?_⟩, ?_, cfg, powered, computeRuns⟩
  · rw [cfg, mem]; exact h.memory
  · intro level; rw [cfg, hlevel]; exact h.levels level
  · rw [cfg, pp]; exact h.pp
  · rw [cfg, pr]; exact h.pr
  · rw [cfg, wdEnabled]; exact h.watchdog
  · rw [cfg, dio, powered]; exact h.dio
  · rw [devices]; exact h.devices
  · rw [State.Unanswered, State.Unanswered, dio, dioReplies]; exact id

theorem State.Keeps.refl (s : State) : s.Keeps s := .of_eq

/-- A change of memory that keeps the memory's part. -/
theorem State.Keeps.of_mem {s : State} {mem : Memory} (h : MemoryInv s.cfg s.mem → MemoryInv s.cfg mem) :
    s.Keeps { s with mem := mem } :=
  ⟨fun hs => ⟨h hs.memory, hs.levels, hs.pp, hs.pr, hs.watchdog, hs.dio, hs.devices⟩, id, rfl, rfl, rfl⟩

/-- A change of the levels that keeps every level's part. -/
theorem State.Keeps.of_levels {s : State} {levels : Vector LevelCell 148}
    (h : (∀ level, CellInv s.cfg level (s.level level)) → ∀ level : Level, CellInv s.cfg level levels[level.val]) :
    s.Keeps { s with levels := levels } :=
  ⟨fun hs => ⟨hs.memory, h hs.levels, hs.pp, hs.pr, hs.watchdog, hs.dio, hs.devices⟩, id, rfl, rfl, rfl⟩

/-- A change of PP that leaves it 0 without the option. -/
theorem State.Keeps.of_pp {s : State} {pp : Bool} (h : pp = true → s.cfg.hasProtection = true) :
    s.Keeps { s with pp := pp } :=
  ⟨fun hs => ⟨hs.memory, hs.levels, h, hs.pr, hs.watchdog, hs.dio, hs.devices⟩, id, rfl, rfl, rfl⟩

/-- A change of the protection registers on a machine with the option. -/
theorem State.Keeps.of_pr {s : State} {pr : Vector Word 16} (h : s.cfg.hasProtection = true) :
    s.Keeps { s with pr := pr } :=
  ⟨fun hs => ⟨hs.memory, hs.levels, hs.pp, fun hn => absurd (h.symm.trans hn) nofun, hs.watchdog, hs.dio, hs.devices⟩, id,
    rfl, rfl, rfl⟩

/-- A change of the Watchdog Timer that leaves it off without the timer. -/
theorem State.Keeps.of_wdEnabled {s : State} {wdEnabled : Bool} (h : wdEnabled = true → s.cfg.hasWatchdog = true) :
    s.Keeps { s with wdEnabled := wdEnabled } :=
  ⟨fun hs => ⟨hs.memory, hs.levels, hs.pp, hs.pr, h, hs.dio, hs.devices⟩, id, rfl, rfl, rfl⟩

/-- A change of the devices that keeps their part. -/
theorem State.Keeps.of_devices {s : State} {devices : List Device} (h : DevicesInv s.devices → DevicesInv devices) :
    s.Keeps { s with devices := devices } :=
  ⟨fun hs => ⟨hs.memory, hs.levels, hs.pp, hs.pr, hs.watchdog, hs.dio, h hs.devices⟩, id, rfl, rfl, rfl⟩

/-- The end of a held command. -/
theorem State.Keeps.of_dio_none {s : State} : s.Keeps { s with dio := none } :=
  ⟨fun hs => ⟨hs.memory, hs.levels, hs.pp, hs.pr, hs.watchdog, nofun, hs.devices⟩, fun _ => nofun, rfl, rfl, rfl⟩

/-! ### Memory and registers -/

theorem State.keeps_writeWord (s : State) (addr v : Word) : s.Keeps (s.writeWord addr v) :=
  .of_mem fun ⟨hwf, hexists⟩ => ⟨s.writeWord_wf addr v hwf, s.writeWord_exists addr v hexists⟩

theorem State.keeps_writeHalf (s : State) (addr : Word) (right : Bool) (v : Byte) :
    s.Keeps (s.writeHalf addr right v) :=
  .of_mem fun ⟨hwf, hexists⟩ => ⟨s.writeHalf_wf addr right v hwf, s.writeHalf_exists addr right v hexists⟩

theorem State.keeps_setGpr (s : State) (r : Gpr) (v : Word) : s.Keeps (s.setGpr r v) := by
  cases r <;> exact .of_eq

theorem State.keeps_setChannel (s : State) (k : Nat) (v : Word) : s.Keeps (s.setChannel k v) := by
  rw [State.setChannel_frame]
  exact .of_eq

/-! ### Interrupt levels -/

/-- An installed level may take any state that its group allows. -/
theorem State.keeps_setLevelState (s : State) {level : Level} {st : LevelState}
    (hi : s.Core → installed s.cfg level = true) (hc : isCounter level = true → st ≠ .active) (ho : st ≠ .disarmed) :
    s.Keeps (s.setLevelState level st) := by
  refine ⟨fun hs => ?_, id, rfl, rfl, rfl⟩
  refine ⟨hs.memory, fun k => ?_, hs.pp, hs.pr, hs.watchdog, hs.dio, hs.devices⟩
  rw [State.setLevelState_level, State.setLevelState_cfg]
  split
  case isFalse => exact hs.levels k
  case isTrue hk =>
    subst hk
    exact ⟨hc, fun h => ⟨ho, ((hs.levels k).override h).2⟩, fun h => absurd (hi hs) (by simp [h])⟩

theorem State.keeps_trigger (s : State) (level : Level) : s.Keeps (s.trigger level) := by
  unfold State.trigger
  split
  case isTrue h =>
    rw [Bool.and_eq_true] at h
    exact s.keeps_setLevelState (fun _ => h.1) (fun _ => nofun) nofun
  case isFalse => exact .refl s

/-- A waiting or active level is installed. -/
theorem State.Core.installed_of_ne_disarmed {s : State} (hs : s.Core) {level : Level}
    (h : (s.level level).state ≠ .disarmed) : installed s.cfg level = true := by
  by_contra hn
  exact h ((hs.levels level).uninstalled (by simpa using hn)).1

/-- A level that can become active is waiting. -/
theorem State.eligible_waiting {s : State} {level : Level} (h : s.eligible level = true) :
    (s.level level).state = .waiting := by
  simp only [State.eligible, Bool.and_eq_true, beq_iff_eq] at h
  exact h.1.1

theorem State.keeps_ioSignal (s : State) : s.Keeps s.ioSignal := by
  unfold State.ioSignal
  split
  · exact s.keeps_trigger ioLevel
  · exact .refl s

theorem State.keeps_refuse (s : State) (level : Level) : s.Keeps (s.refuse level) :=
  .trans (t := { s with p := s.regH }) .of_eq (State.keeps_trigger _ level)

theorem State.keeps_parityAbort (s : State) (bad : Word) : s.Keeps (s.parityAbort bad) := by
  unfold State.parityAbort
  split
  · exact .of_eq
  · exact .trans (t := { s with p := s.regH, wff := true }) .of_eq (State.keeps_trigger _ _)

/-! ### The program status -/

/-- The protection system is operative only with the option. -/
theorem State.hasProtection_of_operative {s : State} (h : s.operative = true) : s.cfg.hasProtection = true := by
  unfold State.operative at h
  exact (Bool.and_eq_true_iff.1 h).1

theorem State.keeps_followProgram (s : State) : s.Keeps s.followProgram :=
  .of_pp fun h => State.hasProtection_of_operative (Bool.and_eq_true_iff.1 h).1

theorem State.keeps_loadStatus (s : State) (w : Word) : s.Keeps (s.loadStatus w) :=
  .trans (t := { s with pp := s.operative && w.bit 8 })
    (.of_pp fun h => State.hasProtection_of_operative (Bool.and_eq_true_iff.1 h).1) .of_eq

/-- A stopped instruction keeps the parts of the invariant. -/
theorem State.keeps_stopped {s t : State} (h : s.stopped t) : s.Keeps t := by
  obtain ⟨bad, rfl⟩ | rfl | rfl := h
  · exact s.keeps_parityAbort bad
  · exact s.keeps_refuse _
  · exact s.keeps_followProgram.trans (State.keeps_refuse _ _)

/-! ### Taking an interrupt and returning from one -/

/-- The return arms a level that was active. -/
theorem State.keeps_leave (s : State) (w0 w1 : Word) : s.Keeps (s.leave w0 w1) := by
  have hstatus : s.Keeps { s.loadStatus w0 with p := w1, exitCondition := false } := (s.keeps_loadStatus w0).trans .of_eq
  unfold State.leave
  split
  case h_1 level hlevel =>
    have hactive : (s.level level).state = .active := by
      unfold State.highestActive at hlevel
      simpa using List.find?_some hlevel
    refine hstatus.trans (State.keeps_setLevelState _ (fun hs => ?_) (fun _ => nofun) nofun)
    exact hs.installed_of_ne_disarmed fun hd => absurd (hactive.symm.trans hd) nofun
  case h_2 => exact hstatus

/-- Counting arms a counter that was waiting. -/
theorem State.keeps_count (s : State) (k : Fin 4) (h : s.eligible (counterLevel k) = true) : s.Keeps (s.count k) := by
  have harmed (v : Word) : s.Keeps ((s.writeWord (levelLocation (counterLevel k)) v).setLevelState (counterLevel k) .armed) :=
    (s.keeps_writeWord _ v).trans (State.keeps_setLevelState _ (fun hs => hs.installed_of_ne_disarmed fun hd =>
      absurd ((State.eligible_waiting h).symm.trans hd) nofun) (fun _ => nofun) nofun)
  unfold State.count
  dsimp only
  split
  · exact ((harmed _).trans .of_eq).trans (State.keeps_trigger _ _)
  · exact (harmed _).trans .of_eq

/-- An entry makes a level active that was waiting and is no counter. -/
theorem State.keeps_enter (s : State) (level : Level) (h : s.eligible level = true) (hc : isCounter level = false) :
    s.Keeps (s.enter level) := by
  have hactive : s.Keeps (s.setLevelState level .active) :=
    s.keeps_setLevelState (fun hs => hs.installed_of_ne_disarmed fun hd =>
      absurd ((State.eligible_waiting h).symm.trans hd) nofun) (fun h => absurd (h.symm.trans hc) nofun) nofun
  exact ((hactive.trans (State.keeps_writeWord _ _ _)).trans (State.keeps_writeWord _ _ _)).trans .of_eq

theorem State.keeps_recognize (s : State) : s.Keeps s.recognize :=
  State.recognize_keeps s.Keeps (fun _ k hu he => hu.trans (State.keeps_count _ k he))
    (fun _ level hu he hc _ => hu.trans (State.keeps_enter _ level he hc)) s (.refl s)

end Sys2Proof.Machine
end

section
/-! The devices' part of the invariant (44_io.md R231, R247), and the operations of the I/O system that keep it. -/

namespace Sys2Proof.Machine

open Sys2Proof

/-! ### Device numbers that share a controller -/

theorem sameController_symm {n k : Byte} (h : sameController n k = true) : sameController k n = true := by
  simp only [sameController, Bool.or_eq_true, Bool.and_eq_true, beq_iff_eq] at h ⊢
  obtain h | ⟨⟨hn, hk⟩, h⟩ := h
  · exact .inl h.symm
  · exact .inr ⟨⟨hk, hn⟩, h.symm⟩

theorem sameController_trans {n k m : Byte} (h : sameController n k = true) (h1 : sameController k m = true) :
    sameController n m = true := by
  simp only [sameController, Bool.or_eq_true, Bool.and_eq_true, beq_iff_eq] at h h1 ⊢
  obtain rfl | ⟨⟨hn, hk⟩, h⟩ := h
  · exact h1
  · obtain rfl | ⟨⟨-, hm⟩, h1⟩ := h1
    · exact .inr ⟨⟨hn, hk⟩, h⟩
    · exact .inr ⟨⟨hn, hm⟩, h.trans h1⟩

/-- Whether a number shares the controller of a third is the same for two that share one. -/
theorem sameController_congr {n k : Byte} (h : sameController n k = true) (m : Byte) :
    sameController n m = sameController k m := by
  rw [Bool.eq_iff_iff]
  exact ⟨sameController_trans (sameController_symm h), sameController_trans h⟩

/-- The controller of a single device is its own. -/
theorem sameController_single {n k : Byte} (hn : isMultiunit n = false) : sameController n k = true ↔ n = k := by
  simp [sameController, hn]

/-! ### Changes of the devices -/

/-- A change of each device that keeps numbers, a single device's agreement with its controller, and the agreement of
two devices of one controller. -/
theorem DevicesInv.map {devices : List Device} {f : Device → Device} (h : DevicesInv devices)
    (hnumber : ∀ d, (f d).number = d.number)
    (hsingle : ∀ d ∈ devices, isMultiunit d.number = false → d.controller = d.condition →
      (f d).controller = (f d).condition)
    (hshared : ∀ d k, sameController d.number k.number = true → d.controller = k.controller →
      (f d).controller = (f k).controller) : DevicesInv (devices.map f) := by
  refine ⟨?_, ?_, ?_⟩
  · rw [List.map_map, show (fun d : Device => d.number) ∘ f = fun d => d.number from funext hnumber]
    exact h.distinct
  · rw [List.forall_mem_map]
    intro d hd hn
    rw [hnumber] at hn
    exact hsingle d hd hn (h.single d hd hn)
  · rw [List.forall_mem_map]
    intro d hd
    rw [List.forall_mem_map]
    intro k hk hs
    rw [hnumber, hnumber] at hs
    exact hshared d k hs (h.shared d hd k hk hs)

/-- A change that leaves number, condition and controller of every device. -/
theorem DevicesInv.map_of_eq {devices : List Device} {f : Device → Device} (h : DevicesInv devices)
    (hf : ∀ d, (f d).number = d.number ∧ (f d).condition = d.condition ∧ (f d).controller = d.controller) :
    DevicesInv (devices.map f) := by
  refine h.map (fun d => (hf d).1) (fun d _ _ e => ?_) (fun d k _ e => ?_)
  · rw [(hf d).2.2, (hf d).2.1, e]
  · rw [(hf d).2.2, (hf k).2.2, e]

/-- Two devices with one number are one device. -/
theorem DevicesInv.eq_of_number {devices : List Device} (h : DevicesInv devices) {d k : Device} (hd : d ∈ devices)
    (hk : k ∈ devices) (e : d.number = k.number) : d = k :=
  List.inj_on_of_nodup_map h.distinct hd hk e

/-- A change of one device that leaves its number, condition and controller. -/
theorem State.keeps_updateDevice (s : State) (n : Byte) {f : Device → Device}
    (hf : ∀ d, (f d).number = d.number ∧ (f d).condition = d.condition ∧ (f d).controller = d.controller) :
    s.Keeps (s.updateDevice n f) :=
  .of_devices fun h => h.map_of_eq fun d => by
    split
    · exact hf d
    · exact ⟨rfl, rfl, rfl⟩

/-- A device and its controller take one condition together. -/
theorem State.keeps_setCondition (s : State) (n : Byte) (condition : Condition) (phase : Phase) :
    s.Keeps ((s.updateDevice n fun d => { d with phase := phase, condition := condition }).setController n condition) := by
  refine .of_devices (s := s) fun h => ?_
  rw [State.updateDevice, List.map_map]
  refine h.map (fun d => ?_) (fun d _ hd e => ?_) (fun d k hs e => ?_)
  · dsimp only [Function.comp]
    split <;> split <;> rfl
  · dsimp only [Function.comp]
    by_cases hn : d.number = n
    · simp [hn, sameController_refl]
    · have hs : sameController d.number n = false := by simpa [← sameController_single hd] using hn
      simpa [hn, hs] using e
  · have hn : ∀ d : Device,
        (if d.number = n then { d with phase := phase, condition := condition } else d).number = d.number := by
      intro d; split <;> rfl
    have hc : ∀ d : Device,
        (if d.number = n then { d with phase := phase, condition := condition } else d).controller = d.controller := by
      intro d; split <;> rfl
    simp only [Function.comp, hn, sameController_congr hs n]
    split
    · rfl
    · rw [hc, hc, e]

/-- A device starts, busy with its controller (44_io.md R242). -/
theorem State.keeps_startDevice (s : State) (n : Byte) (phase : Phase) : s.Keeps (s.startDevice n phase) :=
  s.keeps_setCondition n .busy phase

/-- The operation of a device ends, ready with its controller (44_io.md R236). -/
theorem State.keeps_endOperation (s : State) (n : Byte) : s.Keeps (s.endOperation n) :=
  s.keeps_setCondition n .ready .quiet

theorem State.keeps_raiseDeviceInterrupt (s : State) (n : Byte) : s.Keeps (s.raiseDeviceInterrupt n) :=
  s.keeps_updateDevice n fun _ => ⟨rfl, rfl, rfl⟩

/-! ### The I/O instructions -/

theorem State.keeps_startIo (s : State) (phase : Phase) (d : Device) : s.Keeps (s.startIo phase d) := by
  unfold State.startIo
  split
  · exact (s.keeps_startDevice _ _).trans .of_eq
  · exact .of_eq

theorem State.keeps_haltDevice (s : State) (d : Device) : s.Keeps (s.haltDevice d) := by
  unfold State.haltDevice
  dsimp only
  split
  · exact s.keeps_updateDevice _ fun _ => ⟨rfl, rfl, rfl⟩
  · exact (s.keeps_endOperation _).trans (State.keeps_updateDevice _ _ fun _ => ⟨rfl, rfl, rfl⟩)

theorem keeps_aioEffect (s : State) : s.Keeps (aioEffect s) := by
  unfold aioEffect
  split
  case h_1 => exact .of_eq
  case h_2 d _ =>
    have hclear : s.Keeps (s.updateDevice d.number fun d => { d with pending := false }) :=
      s.keeps_updateDevice _ fun _ => ⟨rfl, rfl, rfl⟩
    exact hclear.trans .of_eq

theorem State.keeps_prepareLoad (s : State) : s.Keeps s.prepareLoad := by
  unfold State.prepareLoad
  dsimp only
  split
  · exact ((s.keeps_setChannel _ _).trans (State.keeps_setChannel _ _ _)).trans .of_eq
  · exact .of_eq

/-- An I/O instruction keeps what each of its answers keeps. -/
theorem State.keeps_withDevice {s t : State} {k : Device → State} (h : s.withDevice k = .done t)
    (hk : ∀ d, s.Keeps (k d)) : s.Keeps t := by
  obtain rfl | ⟨d, -, rfl⟩ := State.withDevice_done h
  · exact .of_eq
  · exact hk d

theorem keeps_sioEffect {s t : State} (h : sioEffect s = .done t) : s.Keeps t := by
  unfold sioEffect at h
  split at h
  · exact s.keeps_prepareLoad.trans (State.keeps_withDevice h fun d => State.keeps_startIo _ _ d)
  · exact State.keeps_withDevice h fun d => State.keeps_startIo _ _ d

/-! ### The service of a channel -/

theorem Device.take_keeps (d : Device) (b : Byte) :
    (d.take b).number = d.number ∧ (d.take b).condition = d.condition ∧ (d.take b).controller = d.controller := by
  unfold Device.take
  split <;> exact ⟨rfl, rfl, rfl⟩

theorem State.keeps_countExhausted {s t : State} {n : Byte} {c : Nat} {odd : Word}
    (h : s.countExhausted n c odd = .next t) : s.Keeps t := by
  unfold State.countExhausted at h
  dsimp only at h
  split at h
  · split at h
    · exact absurd h nofun
    · injection h with h
      subst h
      split
      · exact ((s.keeps_raiseDeviceInterrupt n).trans (State.keeps_setChannel _ _ _)).trans (State.keeps_setChannel _ _ _)
      · exact (s.keeps_setChannel _ _).trans (State.keeps_setChannel _ _ _)
  · injection h with h
    subst h
    exact s.keeps_updateDevice n fun _ => ⟨rfl, rfl, rfl⟩

theorem State.keeps_advanceChannel {s t : State} {n : Byte} {c : Nat} {error : Bool}
    (h : s.advanceChannel n c error = .next t) : s.Keeps t := by
  have hload (w : Word) : s.Keeps ((if byteCount s.cfg.iocd (s.channelOdd c) % 2 = 1 then
      s.setChannelEven c (s.channelEven c + 1) else s).setChannelOdd c w) := by
    split
    · exact (s.keeps_setChannel _ _).trans (State.keeps_setChannel _ _ _)
    · exact s.keeps_setChannel _ _
  unfold State.advanceChannel at h
  dsimp only at h
  split at h
  · exact (hload _).trans (State.keeps_countExhausted h)
  · injection h with h
    exact h ▸ hload _

theorem State.keeps_service {s t : State} {n b : Byte} {bad : Bool} (h : s.service n b bad = .next t) : s.Keeps t := by
  unfold State.service at h
  dsimp only at h
  split at h
  · injection h with h
    exact h ▸ .refl s
  · split at h
    · injection h with h
      exact h ▸ .refl s
    · split at h
      · injection h with h
        exact h ▸ .refl s
      · exact (s.keeps_updateDevice n fun d => d.take_keeps _).trans (State.keeps_advanceChannel h)
      · exact (s.keeps_writeHalf _ _ _).trans (State.keeps_advanceChannel h)

theorem State.keeps_channelEnd (s : State) (n : Byte) (status : OperationalStatus) :
    s.Keeps (s.channelEnd n status) := by
  have hend (w : Word) : s.Keeps (((s.setChannelEven (channelOf n) w).endOperation n).updateDevice n
      fun d => { d with unusualEnd := status.ue }) :=
    ((s.keeps_setChannel _ _).trans (State.keeps_endOperation _ n)).trans
      (State.keeps_updateDevice _ n fun _ => ⟨rfl, rfl, rfl⟩)
  unfold State.channelEnd
  dsimp only
  split
  · exact .refl s
  · split
    · exact .refl s
    · split
      · exact (hend _).trans (State.keeps_raiseDeviceInterrupt _ n)
      · exact hend _

/-! ### A device changes on its own account -/

theorem Device.changeTo_number (d new : Device) : (d.changeTo new).number = d.number := by
  unfold Device.changeTo
  dsimp only
  split <;> rfl

theorem Device.changeTo_controller (d new : Device) : (d.changeTo new).controller = d.controller := by
  unfold Device.changeTo
  dsimp only
  split <;> rfl

theorem Device.changeTo_condition (d new : Device) : (d.changeTo new).condition =
    if d.phase = .quiet ∧ new.condition ≠ .busy then new.condition else d.condition := by
  by_cases h : d.phase = .quiet ∧ new.condition ≠ .busy
  · simp [Device.changeTo, h]
  · rw [if_neg h]
    unfold Device.changeTo
    dsimp only
    rw [if_neg (by simpa using h)]

/-- No other device shares the controller of a single device: it is quiet with the device. -/
theorem State.controllerQuiet_single {s : State} (h : DevicesInv s.devices) {d : Device} (hd : d ∈ s.devices)
    (hs : isMultiunit d.number = false) : s.controllerQuiet d.number = true ↔ d.phase = .quiet := by
  simp only [State.controllerQuiet, List.all_eq_true, Bool.or_eq_true, Bool.not_eq_true', beq_iff_eq]
  constructor
  · intro hq
    exact (hq d hd).resolve_left (by simp [sameController_refl])
  · intro hq k hk
    by_cases hsame : sameController k.number d.number = true
    · have := (sameController_single hs).1 (sameController_symm hsame)
      rw [h.eq_of_number hk hd this.symm]
      exact .inr hq
    · exact .inl (by simpa using hsame)

theorem State.keeps_changeDevice (s : State) (new : Device) : s.Keeps (s.changeDevice new) := by
  have hnumber : ∀ d : Device, (if d.number = new.number then d.changeTo new else d).number = d.number := by
    intro d; split
    · exact d.changeTo_number new
    · rfl
  have hcontroller : ∀ d : Device, (if d.number = new.number then d.changeTo new else d).controller = d.controller := by
    intro d; split
    · exact d.changeTo_controller new
    · rfl
  unfold State.changeDevice
  dsimp only
  generalize hc : (if isMultiunit new.number then new.controller else new.condition) = condition
  have hown (hm : isMultiunit new.number = false) : condition = new.condition := by simpa [hm] using hc.symm
  split
  case isTrue h =>
    rw [Bool.and_eq_true, bne_iff_ne] at h
    obtain ⟨hquiet, hbusy⟩ := h
    refine .of_devices (s := s) fun hinv => ?_
    rw [State.updateDevice, List.map_map]
    refine hinv.map (fun d => ?_) (fun d hd hm e => ?_) (fun d k hs e => ?_)
    · simp [Function.comp, apply_ite Device.number, Device.changeTo_number]
    · simp only [Function.comp, hnumber]
      by_cases hn : d.number = new.number
      · have hphase : d.phase = .quiet := (State.controllerQuiet_single hinv hd hm).1 (hn ▸ hquiet)
        obtain rfl := hown (hn ▸ hm)
        simp [hn, sameController_refl, Device.changeTo_condition, hphase, hbusy]
      · have hs : sameController d.number new.number = false := by simpa [← sameController_single hm] using hn
        simpa [hn, hs] using e
    · simp only [Function.comp, hnumber, sameController_congr hs new.number]
      split
      · rfl
      · rw [hcontroller, hcontroller, e]
  case isFalse h =>
    refine .of_devices (s := s) fun hinv => ?_
    refine hinv.map hnumber (fun d hd hm e => ?_) (fun d k _ e => by rw [hcontroller, hcontroller, e])
    rw [hcontroller]
    by_cases hn : d.number = new.number
    · have hbusy : ¬(d.phase = .quiet ∧ new.condition ≠ .busy) := by
        rw [← State.controllerQuiet_single hinv hd hm, hn, ← hown (hn ▸ hm)]
        simpa using h
      rw [if_pos hn, Device.changeTo_condition, if_neg hbusy, e]
    · rw [if_neg hn, e]

end Sys2Proof.Machine
end

section
/-! Every instruction keeps the parts of the invariant: the rows of RD and WD first, then all of `Instr`. -/

namespace Sys2Proof.Machine

open Sys2Proof

/-! ### Register block, interrupt control, Watchdog Timer, direct I/O -/

/-- A load of the register block is the load of a general register or of a channel register. -/
theorem State.setRegister_some {s t : State} {n : BitVec 6} {v : Word} (h : s.setRegister n v = some t) :
    (n.toNat < 8 ∧ t = s.setGpr (Gpr.ofBits (n.extractLsb' 0 3)) v) ∨
    (8 ≤ n.toNat ∧ n.toNat < 8 + 2 * ioChannels s.cfg ∧ t = s.setChannel (n.toNat - 8) v) := by
  unfold State.setRegister at h
  split_ifs at h with hlow hhigh
  · exact .inl ⟨hlow, (Option.some.inj h).symm⟩
  · exact .inr ⟨by omega, hhigh, (Option.some.inj h).symm⟩

/-- RD register is done with the value of an installed register in A. -/
theorem rdRegisterEffect_done {s t : State} {n : BitVec 6} (h : rdRegisterEffect n s = .done t) :
    ∃ v, s.register n = some v ∧ t = { s with a := v } := by
  unfold rdRegisterEffect at h
  split at h
  · injection h with h
    exact ⟨_, by assumption, h.symm⟩
  · exact absurd h nofun

/-- WD register is done with A in an installed register. -/
theorem wdRegisterEffect_done {s t : State} {n : BitVec 6} (h : wdRegisterEffect n s = .done t) :
    s.setRegister n s.a = some t := by
  unfold wdRegisterEffect at h
  split at h
  · injection h with h
    exact h ▸ by assumption
  · exact absurd h nofun

/-- WD test and reset bit 0 is done with O from the register's bit 0, which is then cleared. -/
theorem testAndResetEffect_done {s t : State} {n : BitVec 6} (h : testAndResetEffect n s = .done t) :
    ∃ v s1, s.register n = some v ∧ s.setRegister n (v &&& 0x7FFF#16) = some s1 ∧ t = { s1 with o := v.bit 0 } := by
  unfold testAndResetEffect at h
  split at h
  · exact absurd h nofun
  · split at h
    · injection h with h
      exact ⟨_, _, by assumption, by assumption, h.symm⟩
    · exact absurd h nofun

/-- A Watchdog Timer command is done only with the timer. -/
theorem watchdogEffect_done {s t : State} {ea : Word} {act : State → State} (h : watchdogEffect ea act s = .done t) :
    s.cfg.hasWatchdog = true ∧ t = { (act s).freeStatus with dioOut := some (.write ea s.a) } := by
  unfold watchdogEffect at h
  split at h
  · injection h with h
    exact ⟨by assumption, h.symm⟩
  · exact absurd h nofun

/-- Direct I/O is done only with the feature. -/
theorem directIoEffect_done {s t : State} {write : Bool} {ea : Word} (h : directIoEffect write ea s = .done t) :
    s.cfg.hasDio = true ∧ t = s.presentCommand (if write then .write ea s.a else .read ea) := by
  unfold directIoEffect at h
  split at h
  · injection h with h
    exact ⟨by assumption, h.symm⟩
  · exact absurd h nofun

theorem State.keeps_setRegister {s t : State} {n : BitVec 6} {v : Word} (h : s.setRegister n v = some t) :
    s.Keeps t := by
  obtain ⟨-, rfl⟩ | ⟨-, -, rfl⟩ := State.setRegister_some h
  · exact s.keeps_setGpr _ v
  · exact s.keeps_setChannel _ v

theorem keeps_protectionRegisterEffect (r : BitVec 4) (s : State) : s.Keeps (protectionRegisterEffect r s) := by
  unfold protectionRegisterEffect
  split
  case isTrue h => exact .of_pr h
  case isFalse => exact .refl s

/-- The levels after interrupt control: the action on the selected group's installed levels, every other as it was. -/
theorem State.controlLevels_level (s : State) (g : BitVec 4) (act : Bool → LevelCell → LevelCell) (level : Level) :
    (s.controlLevels g act).level level =
      match levelSelector level with
      | some (code, i) =>
        if code = g ∧ installed s.cfg level = true then act (s.a.bit i) (s.level level) else s.level level
      | none => s.level level := by
  have hcell := Vector.getElem_ofFn (f := fun level : Level =>
    match levelSelector level with
    | some (code, i) => if code = g && installed s.cfg level then act (s.a.bit i) (s.level level) else s.level level
    | none => s.level level) level.isLt
  refine hcell.trans ?_
  dsimp only [Fin.eta]
  split <;> simp

/-- Interrupt control reaches installed levels only, and no override level. -/
theorem State.controlLevels_cases (s : State) (g : BitVec 4) (act : Bool → LevelCell → LevelCell) (level : Level) :
    (s.controlLevels g act).level level = s.level level ∨
    installed s.cfg level = true ∧ isOverride level = false ∧
      ∃ selected, (s.controlLevels g act).level level = act selected (s.level level) := by
  rw [State.controlLevels_level]
  split
  case h_2 => exact .inl rfl
  case h_1 code i hselector =>
    split
    case isFalse => exact .inl rfl
    case isTrue h =>
      refine .inr ⟨h.2, ?_, _, rfl⟩
      by_contra ho
      unfold levelSelector at hselector
      split_ifs at hselector with hc hov
      · simp [isCounter, isOverride] at hc ho
        omega
      all_goals exact absurd ho (by simp [hov])

/-- Only an override level has the invariant of one. -/
theorem isOverride_of_overrideInstalled {cfg : Config} {level : Level} (h : overrideInstalled cfg level = true) :
    isOverride level = true := by
  have hval : 4 ≤ level.val ∧ level.val < 10 := by
    unfold overrideInstalled at h
    split at h
    case h_7 => exact absurd h Bool.false_ne_true
    all_goals omega
  simpa [isOverride] using hval

/-- An action on levels that makes none active keeps the parts of the invariant. -/
theorem State.keeps_controlLevels (s : State) (g : BitVec 4) {act : Bool → LevelCell → LevelCell}
    (h : ∀ selected cell, (act selected cell).state = .active → cell.state = .active) :
    s.Keeps (s.controlLevels g act) := by
  refine .of_levels (s := s) (levels := (s.controlLevels g act).levels) fun hlevels level => ?_
  have hcell := hlevels level
  change CellInv s.cfg level ((s.controlLevels g act).level level)
  obtain heq | ⟨hi, ho, selected, heq⟩ := s.controlLevels_cases g act level
  · rw [heq]
    exact hcell
  · rw [heq]
    exact ⟨fun hc ha => hcell.counter hc (h _ _ ha),
      fun hov => absurd (isOverride_of_overrideInstalled hov) (by simp [ho]),
      fun hn => absurd (hi.symm.trans hn) nofun⟩

theorem State.keeps_interruptControl {s t : State} {g : BitVec 4} {act : Bool → LevelCell → LevelCell}
    (h : s.perform .privileged (fun s1 => .done (s1.controlLevels g act)) = .next t)
    (ha : ∀ selected cell, (act selected cell).state = .active → cell.state = .active) : s.Keeps t := by
  obtain hstop | ⟨-, rfl⟩ := State.perform_done_cases (effect := fun s1 => s1.controlLevels g act) h
  · exact s.keeps_stopped hstop
  · exact s.keeps_followProgram.trans (State.keeps_controlLevels _ g ha)

theorem State.keeps_acceptReply (s : State) (cmd : DioCommand) (r : DioReply) : s.Keeps (s.acceptReply cmd r) := by
  unfold State.acceptReply
  split <;> exact .of_eq

/-- A command is held only without an acknowledgment waiting, on a machine with power. -/
theorem State.keeps_presentCommand (s : State) (cmd : DioCommand) (hdio : s.cfg.hasDio = true)
    (hp : s.powered = true) : s.Keeps (s.presentCommand cmd) := by
  unfold State.presentCommand
  split
  case h_1 r rest hreplies =>
    refine State.Keeps.trans (t := { s with dioOut := some cmd, dioReplies := rest }) ?_ (State.keeps_acceptReply _ _ _)
    refine ⟨fun hs => ⟨hs.memory, hs.levels, hs.pp, hs.pr, hs.watchdog, hs.dio, hs.devices⟩, fun hu hd => ?_, rfl, rfl, rfl⟩
    exact absurd (hreplies.symm.trans (hu hd)) nofun
  case h_2 hreplies =>
    exact ⟨fun hs => ⟨hs.memory, hs.levels, hs.pp, hs.pr, hs.watchdog, fun _ => ⟨hdio, hp⟩, hs.devices⟩,
      fun _ _ => hreplies, rfl, rfl, rfl⟩

theorem keeps_watchdogEffect {s t : State} {ea : Word} {act : State → State} (h : watchdogEffect ea act s = .done t)
    (ha : s.cfg.hasWatchdog = true → s.Keeps (act s)) : s.Keeps t := by
  obtain ⟨hw, rfl⟩ := watchdogEffect_done h
  exact (ha hw).trans .of_eq

/-! ### The instructions -/

/-- An instruction in its frame keeps the parts of the invariant if its effect does. -/
theorem State.keeps_perform {s t : State} {check : Check} {effect : State → Effect}
    (h : s.perform check effect = .next t)
    (he : effect s.followProgram = .done t → s.followProgram.Keeps t) : s.Keeps t := by
  obtain hstop | ⟨-, hdone⟩ := State.perform_cases h
  · exact s.keeps_stopped hstop
  · exact s.keeps_followProgram.trans (he hdone)

/-- The same for an effect that is always done. -/
theorem State.keeps_perform_done {s t : State} {check : Check} {effect : State → State}
    (h : s.perform check (fun s1 => .done (effect s1)) = .next t)
    (he : s.followProgram.Keeps (effect s.followProgram)) : s.Keeps t :=
  State.keeps_perform h fun hdone => by
    injection hdone with hdone
    exact hdone ▸ he

/-- The same for an instruction that reads its effective word. -/
theorem State.keeps_withEffectiveWord {s t : State} {m : MemRef} {effect : State → Word → State}
    (h : s.withEffectiveWord m effect = .next t) (he : ∀ w, s.followProgram.Keeps (effect s.followProgram w)) :
    s.Keeps t := by
  obtain hstop | ⟨w, rfl⟩ := State.withEffectiveWord_cases h
  · exact s.keeps_stopped hstop
  · exact s.keeps_followProgram.trans (he w)

theorem State.keeps_branchIf (s : State) (condition : Bool) (disp : BitVec 9) : s.Keeps (s.branchIf condition disp) := by
  unfold State.branchIf
  split <;> exact .of_eq

theorem State.keeps_branchOnIndex (s : State) (disp : BitVec 9) : s.Keeps (s.branchOnIndex disp) :=
  .trans (t := { s with x1 := s.x1 + 1 }) .of_eq (State.keeps_branchIf _ _ _)

theorem keeps_copyEffect (op : CopyOp) (ac ai cd : Bool) (f : CopyOperands) (s : State) :
    s.Keeps (copyEffect op ac ai cd f s) := by
  unfold copyEffect
  dsimp only
  split
  · exact (s.keeps_setGpr _ _).trans .of_eq
  all_goals exact s.keeps_setGpr _ _

theorem keeps_divideEffect (s : State) (w : Word) : s.Keeps (divideEffect s w) := by
  unfold divideEffect
  split <;> exact .of_eq

theorem keeps_shiftEffect (s : State) (ea : Word) : s.Keeps (shiftEffect s ea) := by
  unfold shiftEffect
  split <;> exact .of_eq

/-- Every row of RD keeps the parts of the invariant. -/
theorem keeps_rdFunction {f : RdFunction} {s t : State} (h : exec f.instr s = .next t) (hp : s.powered = true) :
    s.Keeps t := by
  cases f with
  | register n =>
    refine State.keeps_perform h fun hdone => ?_
    obtain ⟨v, -, rfl⟩ := rdRegisterEffect_done hdone
    exact .of_eq
  | sio => exact State.keeps_perform h keeps_sioEffect
  | tio => exact State.keeps_perform h fun hdone => State.keeps_withDevice hdone fun _ => .of_eq
  | tdv => exact State.keeps_perform h fun hdone => State.keeps_withDevice hdone fun _ => .of_eq
  | hio =>
    exact State.keeps_perform h fun hdone => State.keeps_withDevice hdone fun d => (State.keeps_haltDevice _ d).trans .of_eq
  | aio => exact State.keeps_perform_done h (keeps_aioEffect _)
  | dataSwitches => exact State.keeps_perform_done (effect := fun s1 => { s1 with a := s1.panel.data }) h .of_eq
  | saveStatus => exact State.keeps_perform_done (effect := State.saveStatus) h .of_eq
  | saveStatusResetInhibits i e =>
    exact State.keeps_perform_done (effect := fun s1 => s1.saveStatus.resetInhibits i e) h .of_eq
  | saveStatusSetInhibits i e =>
    exact State.keeps_perform_done (effect := fun s1 => s1.saveStatus.setInhibits i e) h .of_eq
  | directIO ea =>
    refine State.keeps_perform h fun hdone => ?_
    obtain ⟨hdio, rfl⟩ := directIoEffect_done hdone
    exact State.keeps_presentCommand _ _ hdio hp

/-- Every row of WD keeps the parts of the invariant. -/
theorem keeps_wdFunction {f : WdFunction} {s t : State} (h : exec f.instr s = .next t) (hp : s.powered = true) :
    s.Keeps t := by
  cases f with
  | register n => exact State.keeps_perform h fun hdone => State.keeps_setRegister (wdRegisterEffect_done hdone)
  | testAndResetBit0 n =>
    refine State.keeps_perform h fun hdone => ?_
    obtain ⟨v, s1, -, hset, rfl⟩ := testAndResetEffect_done hdone
    exact (State.keeps_setRegister hset).trans .of_eq
  | protectionRegister r => exact State.keeps_perform_done h (keeps_protectionRegisterEffect r _)
  | loadStatus => exact State.keeps_perform_done (effect := fun s1 => s1.loadStatus s1.a) h (State.keeps_loadStatus _ _)
  | wait => exact State.keeps_perform_done (effect := fun s1 => { s1 with wff := true }) h .of_eq
  | exit => exact State.keeps_perform_done (effect := fun s1 => { s1 with exitCondition := true }) h .of_eq
  | resetInhibits i e => exact State.keeps_perform_done (effect := fun s1 => s1.resetInhibits i e) h .of_eq
  | setInhibits i e => exact State.keeps_perform_done (effect := fun s1 => s1.setInhibits i e) h .of_eq
  | interruptControl001 g =>
    exact State.keeps_interruptControl (act := disarmCell) h fun selected cell => by cases selected <;> simp [disarmCell]
  | interruptControl010 g =>
    exact State.keeps_interruptControl (act := armEnableCell) h fun selected cell => by cases selected <;> simp [armEnableCell]
  | interruptControl011 g =>
    exact State.keeps_interruptControl (act := armDisableCell) h fun selected cell => by cases selected <;> simp [armDisableCell]
  | interruptControl100 g =>
    exact State.keeps_interruptControl (act := enableCell) h fun selected cell => by cases selected <;> simp [enableCell]
  | interruptControl101 g =>
    exact State.keeps_interruptControl (act := disableCell) h fun selected cell => by cases selected <;> simp [disableCell]
  | interruptControl110 g => exact State.keeps_interruptControl (act := enableOnlyCell) h fun _ _ => id
  | interruptControl111 g =>
    exact State.keeps_interruptControl (act := triggerCell) h fun selected cell => by
      unfold triggerCell
      split <;> simp
  | watchdogDisable =>
    exact State.keeps_perform h fun hdone => keeps_watchdogEffect hdone fun _ =>
      .trans (t := { s.followProgram with wdEnabled := false }) (.of_wdEnabled nofun) .of_eq
  | watchdogEnable => exact State.keeps_perform h fun hdone => keeps_watchdogEffect hdone fun hw => .of_wdEnabled fun _ => hw
  | watchdogResetTimer => exact State.keeps_perform h fun hdone => keeps_watchdogEffect hdone fun _ => .refl _
  | directIO ea =>
    refine State.keeps_perform h fun hdone => ?_
    obtain ⟨hdio, rfl⟩ := directIoEffect_done hdone
    exact State.keeps_presentCommand _ _ hdio hp

/-- Every instruction keeps the parts of the invariant. -/
theorem keeps_exec {i : Instr} {s t : State} (h : exec i s = .next t) (hp : s.powered = true) : s.Keeps t := by
  cases i with
  | rd m =>
    obtain hstop | ⟨f, hf⟩ := exec_rd_cases h
    · exact s.keeps_stopped hstop
    · exact keeps_rdFunction hf hp
  | wd m =>
    obtain hstop | ⟨f, hf⟩ := exec_wd_cases h
    · exact s.keeps_stopped hstop
    · exact keeps_wdFunction hf hp
  | lda m | and m | add m | sub m | cp m => exact State.keeps_withEffectiveWord h fun _ => .of_eq
  | ldxExitForm m =>
    obtain hstop | ⟨w0, w1, rfl⟩ := exec_ldxExitForm_cases h
    · exact s.keeps_stopped hstop
    · exact s.keeps_followProgram.trans (State.keeps_leave _ _ _)
  | ldx m =>
    rw [exec_ldx_eq] at h
    split at h
    · obtain hstop | ⟨w0, w1, rfl⟩ := exec_ldxExitForm_cases h
      · exact s.keeps_stopped hstop
      · exact s.keeps_followProgram.trans (State.keeps_leave _ _ _)
    · exact State.keeps_withEffectiveWord h fun _ => .of_eq
  | mul m =>
    obtain hstop | rfl | ⟨w, rfl⟩ := exec_mul_cases h
    · exact s.keeps_stopped hstop
    · exact s.keeps_followProgram.trans (State.keeps_refuse _ _)
    · exact s.keeps_followProgram.trans .of_eq
  | div m =>
    obtain hstop | rfl | ⟨w, rfl⟩ := exec_div_cases h
    · exact s.keeps_stopped hstop
    · exact s.keeps_followProgram.trans (State.keeps_refuse _ _)
    · exact s.keeps_followProgram.trans (keeps_divideEffect _ w)
  | sta m =>
    obtain hstop | ⟨ea, -, -, rfl⟩ := exec_sta_cases h
    · exact s.keeps_stopped hstop
    · exact s.keeps_followProgram.trans (State.keeps_writeWord _ _ _)
  | im m =>
    obtain hstop | ⟨ea, w, -, -, rfl⟩ := exec_im_cases h
    · exact s.keeps_stopped hstop
    · exact (s.keeps_followProgram.trans (State.keeps_writeWord _ _ _)).trans .of_eq
  | b m =>
    obtain hstop | ⟨ea, rfl⟩ := exec_b_cases h
    · exact s.keeps_stopped hstop
    · exact s.keeps_followProgram.trans .of_eq
  | shift m =>
    obtain hstop | ⟨ea, rfl⟩ := exec_shift_cases h
    · exact s.keeps_stopped hstop
    · exact s.keeps_followProgram.trans (keeps_shiftEffect _ ea)
  | bno disp | bnc disp | baz disp | ben disp | ban disp => exact State.keeps_perform_done h (State.keeps_branchIf _ _ _)
  | bix disp =>
    exact State.keeps_perform_done (effect := fun s1 => s1.branchOnIndex disp) h (State.keeps_branchOnIndex _ _)
  | bxno disp =>
    refine State.keeps_perform_done (effect := fun s1 => if s1.o then s1 else s1.branchOnIndex disp) h ?_
    split
    · exact .refl _
    · exact State.keeps_branchOnIndex _ _
  | bxnc disp =>
    refine State.keeps_perform_done (effect := fun s1 => if s1.c then s1 else s1.branchOnIndex disp) h ?_
    split
    · exact .refl _
    · exact State.keeps_branchOnIndex _ _
  | copy f | rand f | randi f | randc f | ror f | rcpy f | rori f | rcpyi f | rorc f | rcpyc f | reor f | reori f
  | reorc f | radd f | raddi f | raddc f => exact State.keeps_perform_done h (keeps_copyEffect _ _ _ _ _ _)
  | sio => exact keeps_rdFunction (f := .sio) h hp
  | tio => exact keeps_rdFunction (f := .tio) h hp
  | tdv => exact keeps_rdFunction (f := .tdv) h hp
  | hio => exact keeps_rdFunction (f := .hio) h hp
  | aio => exact keeps_rdFunction (f := .aio) h hp
  | rdRegister n => exact keeps_rdFunction (f := .register n) h hp
  | rdDataSwitches => exact keeps_rdFunction (f := .dataSwitches) h hp
  | rdSaveStatus => exact keeps_rdFunction (f := .saveStatus) h hp
  | rdSaveStatusResetInhibits i e => exact keeps_rdFunction (f := .saveStatusResetInhibits i e) h hp
  | rdSaveStatusSetInhibits i e => exact keeps_rdFunction (f := .saveStatusSetInhibits i e) h hp
  | rdDirectIO ea => exact keeps_rdFunction (f := .directIO ea) h hp
  | wdRegister n => exact keeps_wdFunction (f := .register n) h hp
  | wdTestAndResetBit0 n => exact keeps_wdFunction (f := .testAndResetBit0 n) h hp
  | wdProtectionRegister r => exact keeps_wdFunction (f := .protectionRegister r) h hp
  | wdLoadStatus => exact keeps_wdFunction (f := .loadStatus) h hp
  | wdWait => exact keeps_wdFunction (f := .wait) h hp
  | wdExit => exact keeps_wdFunction (f := .exit) h hp
  | wdResetInhibits i e => exact keeps_wdFunction (f := .resetInhibits i e) h hp
  | wdSetInhibits i e => exact keeps_wdFunction (f := .setInhibits i e) h hp
  | wdInterruptControl001 g => exact keeps_wdFunction (f := .interruptControl001 g) h hp
  | wdInterruptControl010 g => exact keeps_wdFunction (f := .interruptControl010 g) h hp
  | wdInterruptControl011 g => exact keeps_wdFunction (f := .interruptControl011 g) h hp
  | wdInterruptControl100 g => exact keeps_wdFunction (f := .interruptControl100 g) h hp
  | wdInterruptControl101 g => exact keeps_wdFunction (f := .interruptControl101 g) h hp
  | wdInterruptControl110 g => exact keeps_wdFunction (f := .interruptControl110 g) h hp
  | wdInterruptControl111 g => exact keeps_wdFunction (f := .interruptControl111 g) h hp
  | wdWatchdogDisable => exact keeps_wdFunction (f := .watchdogDisable) h hp
  | wdWatchdogEnable => exact keeps_wdFunction (f := .watchdogEnable) h hp
  | wdWatchdogResetTimer => exact keeps_wdFunction (f := .watchdogResetTimer) h hp
  | wdDirectIO ea => exact keeps_wdFunction (f := .directIO ea) h hp

end Sys2Proof.Machine
end

section
/-! The invariant is kept by the fetch, the panel, the power, every event, and every step. -/

namespace Sys2Proof.Machine

open Sys2Proof

/-! ### The instruction step -/

theorem State.keeps_signalWired (s : State) (wired : Option Level) : s.Keeps (s.signalWired wired) := by
  unfold State.signalWired
  split
  · split
    · exact s.keeps_trigger _
    · exact .refl s
  · exact .refl s

theorem State.keeps_finish (s : State) : s.Keeps s.finish := by
  unfold State.finish
  split
  · exact .trans (t := { s with hold := false, dioFailure := false }) .of_eq (State.keeps_signalWired _ _)
  · exact .of_eq

theorem State.keeps_complete (s : State) : s.Keeps s.complete := by
  unfold State.complete
  split
  · exact .refl s
  · exact s.keeps_finish

/-- A fetch, whether it goes on or is aborted, keeps the parts of the invariant. -/
theorem State.keeps_fetch {s t : State} (h : s.fetch = .ok t ∨ s.fetch = .error t) : s.Keeps t := by
  unfold State.fetch at h
  split at h
  · obtain h | h := h
    · injection h with h
      exact h ▸ .of_eq
    · exact absurd h nofun
  · split at h
    · obtain h | h := h
      · exact absurd h nofun
      · injection h with h
        exact h ▸ .trans (t := { s with regH := s.p }) .of_eq (State.keeps_parityAbort _ _)
    · obtain h | h := h
      · injection h with h
        exact h ▸ .of_eq
      · exact absurd h nofun

theorem State.keeps_instructionStep {s t : State} (h : s.instructionStep = .next t) (hp : s.powered = true) :
    s.Keeps t := by
  obtain ⟨s1, hfetch, rfl⟩ | ⟨s1, s2, hfetch, hexec, rfl⟩ := State.instructionStep_next h
  · exact (State.keeps_fetch (.inr hfetch)).trans s1.keeps_complete
  · have hs1 : s.Keeps s1 := State.keeps_fetch (.inl hfetch)
    exact (hs1.trans (keeps_exec hexec (hs1.powered.trans hp))).trans s2.keeps_complete

/-! ### The panel -/

theorem State.keeps_accessInstruction (s : State) : s.Keeps s.accessInstruction := by
  unfold State.accessInstruction
  dsimp only
  split
  · exact (State.Keeps.trans (t := { s with regH := s.p, regD := s.readWord s.p }) .of_eq
      (State.keeps_parityAbort _ _)).trans .of_eq
  · exact .of_eq

theorem State.keeps_toIdle (s : State) : s.Keeps s.toIdle :=
  .trans (t := { s with wff := false, started := false, dormant := false, regS := s.p }) .of_eq
    (State.keeps_accessInstruction _)

/-- Bringing an instruction to D sets no wait. -/
theorem State.accessInstruction_wff {s : State} (h : s.wff = false) : s.accessInstruction.wff = false := by
  unfold State.accessInstruction
  dsimp only
  split
  · rfl
  · exact h

/-- COMPUTE in IDLE resets WFF (10_state.md R34). -/
theorem State.toIdle_wff (s : State) : s.toIdle.wff = false :=
  State.accessInstruction_wff rfl

/-- What holds of the state through the events of a boundary, and its configuration. -/
structure State.Between (cfg : Config) (s : State) : Prop where
  core : s.Core
  idle : s.IdleNotWaiting
  cfg : s.cfg = cfg

/-- An operation that keeps the parts and sets no wait. -/
theorem State.Between.of_keeps {s t : State} {cfg : Config} (h : s.Between cfg) (k : s.Keeps t)
    (hw : t.wff = true → s.wff = true) : t.Between cfg := by
  refine ⟨k.core h.core, fun hi => ?_, k.cfg.trans h.cfg⟩
  have hs := h.idle (k.idle.symm.trans hi)
  by_contra hn
  exact absurd ((hw (by simpa using hn)).symm.trans hs) nofun

/-- An operation that keeps the parts and ends with the wait reset. -/
theorem State.Core.between {s t : State} {cfg : Config} (h : s.Core) (hcfg : s.cfg = cfg) (k : s.Keeps t)
    (hw : t.wff = false) : t.Between cfg :=
  ⟨k.core h, fun _ => hw, k.cfg.trans hcfg⟩

/-- The core of the invariant depends on the panel and the supply only through the power of a held command. -/
theorem State.Core.of_power {s : State} (h : s.Core) (panel : Panel) (supply : Bool)
    (hp : s.dio.isSome = true → { s with panel := panel, supply := supply }.powered = true) :
    { s with panel := panel, supply := supply }.Core :=
  ⟨h.memory, h.levels, h.pp, h.pr, h.watchdog, fun hd => ⟨(h.dio hd).1, hp hd⟩, h.devices⟩

/-- A change of the panel that leaves the power and whether COMPUTE acts as RUN. -/
theorem State.Between.of_panel {s : State} {cfg : Config} (h : s.Between cfg) (panel : Panel)
    (hp : panel.power = s.panel.power := by rfl)
    (hc : { s with panel := panel }.computeRuns = s.computeRuns := by rfl) : { s with panel := panel }.Between cfg := by
  have hpowered : { s with panel := panel }.powered = s.powered := by simp only [State.powered, hp]
  refine ⟨h.core.of_power panel s.supply fun hd => hpowered.trans (h.core.dio hd).2, fun hi => h.idle ?_, h.cfg⟩
  rwa [State.idle, hpowered, hc] at hi

/-- A moved switch (60_exceptions.md R323): COMPUTE comes to IDLE, goes to RUN, or acts as before. -/
theorem State.Between.movePanel {s : State} {cfg : Config} (h : s.Between cfg) (panel : Panel)
    (hp : panel.power = s.panel.power := by rfl) : (s.movePanel panel).Between cfg := by
  have hpowered : { s with panel := panel }.powered = s.powered := by simp only [State.powered, hp]
  have hcore : { s with panel := panel }.Core :=
    h.core.of_power panel s.supply fun hd => hpowered.trans (h.core.dio hd).2
  unfold State.movePanel
  dsimp only
  split_ifs with hoff hidle hrun
  · exact ⟨hcore, fun hi => absurd (hpowered.symm.trans (Bool.and_eq_true_iff.1 hi).1) (by simpa using hoff), h.cfg⟩
  · exact hcore.between h.cfg (State.keeps_toIdle _) (State.toIdle_wff _)
  · rw [Bool.and_eq_true] at hrun
    have hkeeps : { s with panel := panel }.Keeps (State.toRun { s with panel := panel }) := .of_eq
    refine ⟨hkeeps.core hcore, fun hi => absurd hrun.2 ?_, h.cfg⟩
    rw [hkeeps.idle, State.idle, Bool.and_eq_true, Bool.not_eq_true'] at hi
    simp [hi.2]
  · refine h.of_panel panel hp ?_
    cases h1 : s.computeRuns <;> cases h2 : { s with panel := panel }.computeRuns <;> simp_all

/-- STEP: one instruction, and IDLE again (70_reset_and_hazards.md R345). -/
theorem State.Between.singleStep {s t : State} {cfg : Config} (h : s.Between cfg) (hp : s.powered = true)
    (ht : s.singleStep = .next t) : t.Between cfg := by
  unfold State.singleStep at ht
  split at ht
  · rename_i s1 hs1
    injection ht with ht
    subst ht
    have hkeeps : s.Keeps s1 := .trans (t := s.toRun) .of_eq (State.keeps_instructionStep hs1 hp)
    exact h.core.between h.cfg (hkeeps.trans s1.keeps_toIdle) s1.toIdle_wff
  · exact absurd ht nofun
  · exact absurd ht nofun

/-! ### The power -/

/-- The free cell of a level after a return of power is one the invariant allows. -/
theorem powerUpCell_inv (cfg : Config) (level : Level) (b0 b1 b2 : Bool) :
    CellInv cfg level (powerUpCell cfg level b0 b1 b2) := by
  have hdisjoint : isOverride level = true → isCounter level = false := by
    simp only [isOverride, isCounter, Bool.and_eq_true, decide_eq_true_eq, decide_eq_false_iff_not]
    omega
  by_cases hi : installed cfg level = true
  case neg =>
    rw [Bool.not_eq_true] at hi
    have hcell : powerUpCell cfg level b0 b1 b2 = ⟨.disarmed, false⟩ := by simp [powerUpCell, hi]
    rw [hcell]
    refine ⟨fun _ => nofun, fun hov => absurd hi ?_, fun _ => ⟨rfl, rfl⟩⟩
    have ho := isOverride_of_overrideInstalled hov
    simp [installed, hdisjoint ho, ho, hov]
  case pos =>
    refine ⟨fun hc => ?_, fun hov => ?_, fun hn => absurd (hi.symm.trans hn) nofun⟩
    · have ho : isOverride level = false := by
        by_contra ho
        exact absurd (hc.symm.trans (hdisjoint (by simpa using ho))) nofun
      cases b0 <;> cases b1 <;> simp [powerUpCell, hi, hc, ho]
    · have ho := isOverride_of_overrideInstalled hov
      cases b0 <;> cases b1 <;> simp [powerUpCell, hi, ho]

/-- A return of power keeps the core: the free values are within what the configuration allows. -/
theorem State.powerUp_core {s : State} (h : s.Core) (hd : s.dio = none) : s.powerUp.Core := by
  refine ⟨h.memory, fun level => ?levels, fun hpp => (Bool.and_eq_true_iff.1 hpp).1, fun hn => ?pr,
    fun hw => (Bool.and_eq_true_iff.1 hw).1, fun hs => ?dio, h.devices⟩
  case levels =>
    have hcell : s.powerUp.level level = powerUpCell s.cfg level (freeBit (s.free + 16 + 3 * level.val))
        (freeBit (s.free + 17 + 3 * level.val)) (freeBit (s.free + 18 + 3 * level.val)) :=
      Vector.getElem_ofFn level.isLt
    rw [hcell]
    exact powerUpCell_inv s.cfg level _ _ _
  case pr => exact (if_neg (by simpa [State.powerUp] using hn)).trans (h.pr hn)
  case dio => exact absurd (hd ▸ hs) nofun

/-- After a return of power COMPUTE in IDLE has WFF reset. -/
theorem State.powerUp_idleNotWaiting (s : State) : s.powerUp.IdleNotWaiting := by
  intro hi
  have hruns : s.computeRuns = false := Eq.mp (Bool.not_eq_true' _) (Bool.and_eq_true_iff.1 hi).2
  simp [State.powerUp, hruns]

/-- A change of the supply or of the POWER switch. -/
theorem State.Between.changePower {s : State} {cfg : Config} (h : s.Between cfg) (panel : Panel) (supply : Bool)
    (hc : { s with panel := panel, supply := supply }.computeRuns = s.computeRuns := by rfl) :
    (s.changePower { s with panel := panel, supply := supply }).Between cfg := by
  unfold State.changePower
  split_ifs with hup hdown
  case pos =>
    rw [Bool.and_eq_true, Bool.not_eq_true'] at hup
    have hdio : s.dio = none := by
      by_contra hd
      exact absurd ((h.core.dio (Option.isSome_iff_ne_none.2 hd)).2.symm.trans hup.1) nofun
    have hcore := State.powerUp_core (h.core.of_power panel supply fun hd => hup.2) hdio
    have hkeeps := State.keeps_trigger { s with panel := panel, supply := supply }.powerUp powerOnLevel
    refine ⟨hkeeps.core hcore, fun hi => ?_, hkeeps.cfg.trans h.cfg⟩
    rw [hkeeps.idle] at hi
    rw [State.trigger_wff]
    exact State.powerUp_idleNotWaiting _ hi
  case pos =>
    rw [Bool.and_eq_true, Bool.not_eq_true'] at hdown
    refine ⟨⟨h.core.memory, h.core.levels, h.core.pp, h.core.pr, h.core.watchdog, nofun, h.core.devices⟩,
      fun hi => absurd ((Bool.and_eq_true_iff.1 hi).1.symm.trans hdown.2) nofun, h.cfg⟩
  case neg =>
    have hpowered : { s with panel := panel, supply := supply }.powered = s.powered := by
      cases h1 : s.powered <;> cases h2 : { s with panel := panel, supply := supply }.powered <;> simp_all
    refine ⟨h.core.of_power panel supply fun hd => hpowered.trans (h.core.dio hd).2, fun hi => h.idle ?_, h.cfg⟩
    rwa [State.idle, hpowered, hc] at hi

/-! ### The events of a boundary -/

theorem State.signalWired_wff (s : State) (wired : Option Level) : (s.signalWired wired).wff = s.wff := by
  unfold State.signalWired
  split
  · split
    · exact s.trigger_wff _
    · rfl
  · rfl

theorem State.finish_wff (s : State) : s.finish.wff = s.wff := by
  unfold State.finish
  split
  · exact State.signalWired_wff _ _
  · rfl

theorem State.keeps_endHold (s : State) : s.Keeps s.endHold := by
  have hfinish : s.Keeps { s with dio := none }.finish := State.Keeps.of_dio_none.trans (State.keeps_finish _)
  unfold State.endHold
  dsimp only
  split
  · exact hfinish.trans (State.keeps_toIdle _)
  · exact hfinish

theorem State.endHold_wff {s : State} (h : s.endHold.wff = true) : s.wff = true := by
  unfold State.endHold at h
  dsimp only at h
  split at h
  · exact absurd ((State.toIdle_wff _).symm.trans h) nofun
  · exact (State.finish_wff { s with dio := none }).symm.trans h

/-- The substitute acknowledge of the Watchdog Timer (60_exceptions.md R321). -/
theorem State.keeps_timeoutDio (s : State) : s.Keeps s.timeoutDio ∧ (s.timeoutDio.wff = true → s.wff = true) := by
  have habort (cmd : DioCommand) : s.Keeps (s.abortDio cmd) ∧ ((s.abortDio cmd).wff = true → s.wff = true) := by
    unfold State.abortDio
    generalize h1 : State.endHold _ = s1
    have hkeeps : s.Keeps s1 := h1 ▸ State.Keeps.trans .of_eq (State.keeps_endHold _)
    have hwff : s1.wff = true → s.wff = true := fun h => (State.endHold_wff (h1 ▸ h) :)
    exact ⟨hkeeps.trans .of_eq, hwff⟩
  unfold State.timeoutDio
  split
  · split
    · exact habort _
    · exact ⟨.refl s, id⟩
  · exact ⟨.refl s, id⟩

theorem State.keeps_timeoutWatchdog (s : State) : s.Keeps s.timeoutWatchdog ∧ s.timeoutWatchdog.wff = s.wff := by
  unfold State.timeoutWatchdog
  split
  · exact ⟨.trans (t := { s with wdHangup := true }) .of_eq (State.keeps_signalWired _ _), State.signalWired_wff _ _⟩
  · exact ⟨.refl s, rfl⟩

theorem State.keeps_setSelected (s : State) (v : Word) : s.Keeps (s.setSelected v) ∧ (s.setSelected v).wff = s.wff := by
  unfold State.setSelected
  split <;> exact ⟨.of_eq, rfl⟩

/-- The cell of a level after RESET is one the invariant allows. -/
theorem resetCell_inv (cfg : Config) (level : Level) :
    CellInv cfg level (if overrideInstalled cfg level then ⟨.armed, true⟩ else ⟨.disarmed, false⟩) := by
  split
  case isTrue ho =>
    refine ⟨fun _ => nofun, fun _ => ⟨nofun, rfl⟩, fun hn => absurd hn ?_⟩
    have hov := isOverride_of_overrideInstalled ho
    have hc : isCounter level = false := by
      simp only [isOverride, isCounter, Bool.and_eq_true, decide_eq_true_eq, decide_eq_false_iff_not] at hov ⊢
      omega
    simp [installed, hc, hov, ho]
  case isFalse ho => exact ⟨fun _ => nofun, fun h => absurd h ho, fun _ => ⟨rfl, rfl⟩⟩

theorem resetLevels_getElem (cfg : Config) (level : Level) : (resetLevels cfg)[level.val] =
    if overrideInstalled cfg level then ⟨.armed, true⟩ else ⟨.disarmed, false⟩ :=
  Vector.getElem_ofFn level.isLt

theorem resetLevels_inv (cfg : Config) (level : Level) : CellInv cfg level (resetLevels cfg)[level.val] := by
  rw [resetLevels_getElem]
  exact resetCell_inv cfg level

/-- RESET keeps the core: the levels and the devices are as the invariant has them. -/
theorem State.keeps_initializeReset (s : State) : s.Keeps s.initializeReset := by
  have hlevels (level : Level) : CellInv s.cfg level (s.initializeReset.level level) := resetLevels_inv s.cfg level
  have hdevices (h : s.Core) : DevicesInv (s.devices.map Device.reset) :=
    h.devices.map (fun _ => rfl) (fun _ _ _ _ => rfl) (fun _ _ _ _ => rfl)
  exact ⟨fun h => ⟨h.memory, hlevels, id, h.pr, h.watchdog, h.dio, hdevices h⟩, id, rfl, rfl, rfl⟩

/-- A switch that only IDLE makes operative keeps the parts, and IDLE has WFF reset. -/
theorem State.Between.whenIdle {s s1 t : State} {cfg : Config} (h : s.Between cfg) (k : s.Keeps s1)
    (hw : s1.wff = true → s.wff = true) (ht : s.whenIdle s1 = .next t) : t.Between cfg := by
  unfold State.whenIdle at ht
  split at ht
  · injection ht with ht
    exact ht ▸ h.of_keeps k hw
  · injection ht with ht
    exact ht ▸ h

/-- The panel's access to an instruction, from a state that differs from IDLE's in P and S only. -/
theorem State.Between.access {s s1 t : State} {cfg : Config} (h : s.Between cfg) (k : s.Keeps s1)
    (hw : s1.wff = s.wff) (ht : s.whenIdle s1.accessInstruction = .next t) : t.Between cfg := by
  unfold State.whenIdle at ht
  split at ht
  case isTrue hidle =>
    injection ht with ht
    exact ht ▸ h.core.between h.cfg (k.trans s1.keeps_accessInstruction)
      (State.accessInstruction_wff (hw.trans (h.idle hidle)))
  case isFalse =>
    injection ht with ht
    exact ht ▸ h

/-- Every action on the panel. -/
theorem State.Between.operate {s t : State} {cfg : Config} (h : s.Between cfg) {action : PanelAction}
    (ht : s.operate action = .next t) : t.Between cfg := by
  cases action with
  | power on =>
    injection ht with ht
    exact ht ▸ h.changePower { s.panel with power := on } s.supply
  | key k =>
    injection ht with ht
    exact ht ▸ h.movePanel _
  | compute c =>
    injection ht with ht
    exact ht ▸ h.movePanel _
  | step =>
    have ht : (if !s.idle || s.parityHalt || s.dio.isSome then .next s else s.singleStep) = .next t := ht
    split at ht
    case isTrue =>
      injection ht with ht
      exact ht ▸ h
    case isFalse hs =>
      have hidle : s.idle = true := by
        by_contra hi
        exact hs (by simp [hi])
      exact h.singleStep (Bool.and_eq_true_iff.1 hidle).1 ht
  | protect on | parityHalt halt | progAddHold hold | data w =>
    injection ht with ht
    exact ht ▸ h.of_panel _
  | parityIgnore ignore =>
    injection ht with ht
    subst ht
    unfold State.moveParityIgnore
    dsimp only
    split
    · exact (h.of_panel { s.panel with parityIgnore := ignore }).of_keeps .of_eq id
    · exact h.of_panel { s.panel with parityIgnore := ignore }
  | select r => exact h.whenIdle (s1 := { s with panel := { s.panel with select := r } }) .of_eq id ht
  | registerClear => exact h.whenIdle (s.keeps_setSelected _).1 (s.keeps_setSelected _).2.symm.trans ht
  | registerEnter => exact h.whenIdle (s.keeps_setSelected _).1 (s.keeps_setSelected _).2.symm.trans ht
  | memoryStore => exact h.whenIdle (s.keeps_writeWord _ _) id ht
  | memoryFetch => exact h.access (s1 := { s with p := s.regS }) .of_eq rfl ht
  | incrementAddress => exact h.access (s1 := { s with regS := s.regS + 1, p := s.regS + 1 }) .of_eq rfl ht
  | interrupt =>
    injection ht with ht
    exact ht ▸ h.of_keeps (s.keeps_trigger _) (s.trigger_wff _).symm.trans
  | reset => exact h.whenIdle s.keeps_initializeReset nofun ht
  | load => exact h.whenIdle (s1 := s.initializeLoad) .of_eq id ht

theorem State.not_idle_of_running {s : State} (h : s.running = true) : s.idle = false := by
  simp only [State.running, State.idle, Bool.and_eq_true] at h ⊢
  simp [h.1.2]

/-- What happens while the CPU runs may set a wait. -/
theorem State.Between.of_running {s t : State} {cfg : Config} (h : s.Between cfg) (hr : s.running = true)
    (k : s.Keeps t) : t.Between cfg :=
  ⟨k.core h.core, fun hi => absurd ((State.not_idle_of_running hr).symm.trans (k.idle.symm.trans hi)) nofun,
    k.cfg.trans h.cfg⟩

theorem State.changeDevice_wff (s : State) (new : Device) : (s.changeDevice new).wff = s.wff := by
  unfold State.changeDevice
  exact (apply_ite State.wff _ _ _).trans (ite_self _)

theorem State.ioSignal_wff (s : State) : s.ioSignal.wff = s.wff := by
  unfold State.ioSignal
  split
  · exact s.trigger_wff _
  · rfl

theorem State.Between.ioSignal {s : State} {cfg : Config} (h : s.Between cfg) : s.ioSignal.Between cfg :=
  h.of_keeps s.keeps_ioSignal s.ioSignal_wff.symm.trans

theorem State.keeps_recognitionPoint (s : State) : s.Keeps s.recognitionPoint := by
  unfold State.recognitionPoint
  split
  · exact .refl s
  · exact s.keeps_recognize

/-- Every event of the environment. -/
theorem State.Between.apply {s t : State} {cfg : Config} (h : s.Between cfg) {event : Event}
    (ht : s.apply event = .next t) : t.Between cfg := by
  have hsignal (level : Level) : (s.trigger level).Between cfg :=
    h.of_keeps (s.keeps_trigger level) fun hw => (s.trigger_wff level).symm.trans hw
  cases event with
  | clockPulse k | powerOff =>
    injection ht with ht
    exact ht ▸ hsignal _
  | externalSignal level =>
    injection ht with ht
    subst ht
    split
    · exact hsignal level
    · exact h
  | powerLost =>
    injection ht with ht
    exact ht ▸ h.changePower s.panel false
  | powerOn =>
    injection ht with ht
    subst ht
    unfold State.returnPower
    split
    · exact hsignal powerOnLevel
    · exact h.changePower s.panel true
  | parityFault a =>
    injection ht with ht
    exact ht ▸ h.of_keeps .of_eq id
  | portWrite a v =>
    injection ht with ht
    subst ht
    unfold State.storeByPort
    split
    · exact h
    · exact h.of_keeps (s.keeps_writeWord a v) id
  | service n b bad =>
    have ht : (if s.running then s.service n b bad else .next s) = .next t := ht
    split at ht
    case isTrue hrun => exact h.of_running hrun (State.keeps_service ht)
    case isFalse =>
      injection ht with ht
      exact ht ▸ h
  | channelEnd n status =>
    injection ht with ht
    subst ht
    split
    case isTrue hrun => exact h.of_running hrun (s.keeps_channelEnd n status)
    case isFalse => exact h
  | deviceInterrupt n =>
    injection ht with ht
    exact ht ▸ h.of_keeps (s.keeps_raiseDeviceInterrupt n) id
  | deviceChange d =>
    injection ht with ht
    exact ht ▸ h.of_keeps (s.keeps_changeDevice d) fun hw => (s.changeDevice_wff d).symm.trans hw
  | dioReply r =>
    injection ht with ht
    subst ht
    exact ⟨⟨h.core.memory, h.core.levels, h.core.pp, h.core.pr, h.core.watchdog, h.core.dio, h.core.devices⟩, h.idle, h.cfg⟩
  | dioTimeout =>
    injection ht with ht
    exact ht ▸ h.of_keeps s.keeps_timeoutDio.1 s.keeps_timeoutDio.2
  | watchdogTimeout =>
    injection ht with ht
    exact ht ▸ h.of_keeps s.keeps_timeoutWatchdog.1 fun hw => s.keeps_timeoutWatchdog.2.symm.trans hw
  | panel action => exact h.operate ht

/-! ### The pass and the step -/

theorem State.signalWired_dio (s : State) (wired : Option Level) : (s.signalWired wired).dio = s.dio := by
  unfold State.signalWired
  split
  · split
    · exact s.trigger_dio _
    · rfl
  · rfl

theorem State.finish_dio (s : State) : s.finish.dio = s.dio := by
  unfold State.finish
  split
  · exact State.signalWired_dio _ _
  · rfl

theorem State.parityAbort_dio (s : State) (addr : Word) : (s.parityAbort addr).dio = s.dio := by
  have hcarried := congrArg State.dio (s.parityAbort_carried addr)
  exact hcarried

theorem State.toIdle_dio (s : State) : s.toIdle.dio = s.dio := by
  unfold State.toIdle State.accessInstruction
  dsimp only
  split
  · exact State.parityAbort_dio _ _
  · rfl

theorem State.endHold_dio (s : State) : s.endHold.dio = none := by
  have hfinish : { s with dio := none }.finish.dio = none := State.finish_dio _
  unfold State.endHold
  dsimp only
  split
  · exact (State.toIdle_dio _).trans hfinish
  · exact hfinish

theorem State.acceptReply_wff (s : State) (cmd : DioCommand) (r : DioReply) : (s.acceptReply cmd r).wff = s.wff := by
  unfold State.acceptReply
  split <;> rfl

/-- Whether or not an acknowledgment has come, none waits for a held command afterwards. -/
theorem State.Between.awaitReply {s : State} {cfg : Config} (h : s.Between cfg) (cmd : DioCommand) :
    (s.awaitReply cmd).Between cfg ∧ (s.awaitReply cmd).Unanswered := by
  unfold State.awaitReply
  split
  case h_1 r rest hr =>
    have hrest : { s with dioReplies := rest }.Between cfg :=
      ⟨⟨h.core.memory, h.core.levels, h.core.pp, h.core.pr, h.core.watchdog, h.core.dio, h.core.devices⟩, h.idle, h.cfg⟩
    refine ⟨hrest.of_keeps ((State.keeps_acceptReply _ _ _).trans (State.keeps_endHold _)) fun hw => ?_, fun hs => ?_⟩
    · exact (State.acceptReply_wff _ _ _).symm.trans (State.endHold_wff hw)
    · exact absurd (State.endHold_dio _ ▸ hs) nofun
  case h_2 hr => exact ⟨h, fun _ => hr⟩

/-- One pass, after the events of the boundary. -/
theorem State.Between.pass {s t : State} {cfg : Config} (h : s.Between cfg) (ht : s.pass = .next t) :
    t.Between cfg ∧ t.Unanswered := by
  have h0 : s.ioSignal.Between cfg := h.ioSignal
  unfold State.pass at ht
  dsimp only at ht
  split at ht
  case h_1 cmd hdio =>
    injection ht with ht
    exact ht ▸ h0.awaitReply cmd
  case h_2 hdio =>
    have hfree : s.ioSignal.Unanswered := fun hs => absurd (hdio ▸ hs) nofun
    split at ht
    case isTrue =>
      injection ht with ht
      exact ht ▸ ⟨h0, hfree⟩
    case isFalse hrun =>
      have hrun : s.ioSignal.running = true := by
        by_contra hn
        exact hrun (by simp [hn])
      have hpoint : s.ioSignal.Keeps s.ioSignal.recognitionPoint := s.ioSignal.keeps_recognitionPoint
      have hpowered : s.ioSignal.powered = true := (Bool.and_eq_true_iff.1 (Bool.and_eq_true_iff.1 hrun).1).1
      split at ht
      case isTrue =>
        injection ht with ht
        exact ht ▸ ⟨h0.of_running hrun hpoint, hpoint.unanswered hfree⟩
      case isFalse =>
        have hkeeps := hpoint.trans (State.keeps_instructionStep ht (hpoint.powered.trans hpowered))
        exact ⟨h0.of_running hrun hkeeps, hkeeps.unanswered hfree⟩

/-- Settles O59. -/
theorem invariantHoldsAtReset : Obligations.InvariantHoldsAtReset := by
  intro cfg
  have hlevels (level : Level) : CellInv cfg level ((State.resetOf cfg).level level) := resetLevels_inv cfg level
  have hmemory : MemoryInv cfg [] := ⟨rfl, fun _ hc => absurd hc List.not_mem_nil⟩
  have hdevices : DevicesInv [] :=
    ⟨List.nodup_nil, fun _ hd => absurd hd List.not_mem_nil, fun _ hd => absurd hd List.not_mem_nil⟩
  have hcore : (State.resetOf cfg).Core := ⟨hmemory, hlevels, id, fun _ => rfl, fun h => absurd h Bool.false_ne_true,
    fun h => absurd h Bool.false_ne_true, hdevices⟩
  exact State.inv_iff.2 ⟨hcore, fun h => absurd h Bool.false_ne_true, fun _ => rfl⟩

/-- Settles O60: every event of the boundary keeps the core of the invariant and IDLE's rule, and the pass keeps them
and leaves no acknowledgment waiting for a held command. -/
theorem everyStepKeepsTheInvariant : Obligations.EveryStepKeepsTheInvariant := by
  unfold Obligations.EveryStepKeepsTheInvariant
  intro s t hinv hstep
  obtain ⟨hcore, -, hidle⟩ := State.inv_iff.1 hinv
  have hpass : t.Between s.cfg ∧ t.Unanswered := by
    obtain ⟨-, hpass⟩ | ⟨events, rest, s1, -, hevents, hpass⟩ := step_next hstep
    · have hstart : { s with parityFaults := [] }.Between s.cfg :=
        State.Between.of_keeps ⟨hcore, hidle, rfl⟩ .of_eq id
      exact hstart.pass hpass
    · have hstart : { s with parityFaults := [], env := rest }.Between s.cfg :=
        State.Between.of_keeps ⟨hcore, hidle, rfl⟩ .of_eq id
      have hs1 := State.applyAll_keeps (State.Between s.cfg) (fun _ => State.Between.ioSignal)
        (fun _ _ _ hs1 => hs1.apply) events _ s1 hstart hevents
      exact hs1.pass hpass
  obtain ⟨⟨hcore', hidle', hcfg⟩, hanswer'⟩ := hpass
  exact ⟨State.inv_iff.2 ⟨hcore', hanswer', hidle'⟩, hcfg⟩

end Sys2Proof.Machine
end

section
/-! The frames: what an instruction that goes on leaves as it was (60_exceptions.md R303, R307; the Affected lists). -/

namespace Sys2Proof.Machine

open Sys2Proof

/-! ### Instructions turned back -/

/-- `t` is `s` with its instruction turned back: stopped, or refused for a missing option. -/
def State.turnedBack (s t : State) : Prop :=
  s.stopped t ∨ ∃ level, t = s.followProgram.refuse level

theorem State.turnedBack_carried {s t : State} (h : s.turnedBack t) : t = s.carried t := by
  obtain hstop | ⟨level, rfl⟩ := h
  · exact State.stopped_carried hstop
  · exact s.followProgram.refuse_carried level

theorem State.turnedBack_mem {s t : State} (h : s.turnedBack t) : t.mem = s.mem := by
  have hmem := congrArg State.mem (State.turnedBack_carried h)
  exact hmem

theorem State.turnedBack_p {s t : State} (h : s.turnedBack t) : t.p = s.regH := by
  obtain hstop | ⟨level, rfl⟩ := h
  · exact State.stopped_p hstop
  · exact s.followProgram.refuse_p level

theorem State.turnedBack_enabled {s t : State} (h : s.turnedBack t) (k : Level) :
    (t.level k).enabled = (s.level k).enabled := by
  obtain hstop | ⟨level, rfl⟩ := h
  · exact State.stopped_enabled hstop k
  · exact State.trigger_enabled _ _ k

/-- An instruction turned back changes none of the destinations `f` takes from the new state. -/
theorem State.turnedBack_frame {s t : State} (h : s.turnedBack t) (f : State → State) (hf : f t = t := by rfl) :
    t = f (s.carried t) :=
  hf.symm.trans (congrArg f (State.turnedBack_carried h))

theorem State.stopped_frame {s t : State} (h : s.stopped t) (f : State → State) (hf : f t = t := by rfl) :
    t = f (s.carried t) :=
  State.turnedBack_frame (.inl h) f hf

/-! ### Memory after a store -/

/-- A store changes no byte but the two of its word. -/
theorem State.writeWord_byteAt (s : State) (addr v : Word) {b : Nat} (h0 : b ≠ 2 * addr.toNat)
    (h1 : b ≠ 2 * addr.toNat + 1) : (s.writeWord addr v).mem.byteAt b = s.mem.byteAt b := by
  unfold State.writeWord
  dsimp only
  split
  · rw [Memory.byteAt_setByte_ne _ _ _ _ h1, Memory.byteAt_setByte_ne _ _ _ _ h0]
  · rfl

/-- Any other word reads as before a store, in any memory. -/
theorem State.readWord_writeWord_ne (s : State) {addr other : Word} (v : Word) (h : other ≠ addr) :
    (s.writeWord addr v).readWord other = s.readWord other := by
  have hne : other.toNat ≠ addr.toNat := fun he => h (BitVec.eq_of_toNat_eq he)
  have hbyte (b : Nat) (hb : b / 2 = other.toNat) : (s.writeWord addr v).mem.byteAt b = s.mem.byteAt b :=
    s.writeWord_byteAt addr v (by omega) (by omega)
  unfold State.readWord
  rw [hbyte _ (by omega), hbyte _ (by omega)]
  rfl

/-! ### The memory-reference instructions -/

/-- DIV changes no register but E and A, and no indicator but O and C. -/
theorem divideEffect_frame (s : State) (w : Word) : divideEffect s w =
    { s with e := (divideEffect s w).e, a := (divideEffect s w).a, o := (divideEffect s w).o, c := (divideEffect s w).c } := by
  unfold divideEffect
  split <;> rfl

theorem shiftEffect_frame (s : State) (ea : Word) : shiftEffect s ea =
    { s with e := (shiftEffect s ea).e, a := (shiftEffect s ea).a, o := (shiftEffect s ea).o, c := (shiftEffect s ea).c } := by
  unfold shiftEffect
  split <;> rfl

/-- The exit restores the status and P, and arms a level. -/
theorem State.leave_frame (s : State) (w0 w1 : Word) : s.leave w0 w1 = { s with
    pp := (s.leave w0 w1).pp
    ii := (s.leave w0 w1).ii
    ei := (s.leave w0 w1).ei
    o := (s.leave w0 w1).o
    c := (s.leave w0 w1).c
    p := (s.leave w0 w1).p
    exitCondition := (s.leave w0 w1).exitCondition
    levels := (s.leave w0 w1).levels } := by
  unfold State.leave
  dsimp only
  split <;> rfl

/-- Settles O51 for STA and IM: a stop changes no memory, and the store changes only the effective word. -/
theorem exec_store_byteAt {m : MemRef} {s t : State} (h : exec (.sta m) s = .next t ∨ exec (.im m) s = .next t) (b : Nat)
    (hb : ∀ ea, s.effectiveAddress m = .ok ea → b ≠ 2 * ea.toNat ∧ b ≠ 2 * ea.toNat + 1) :
    t.mem.byteAt b = s.mem.byteAt b := by
  have hstop (hs : s.stopped t) : t.mem.byteAt b = s.mem.byteAt b := by rw [State.turnedBack_mem (.inl hs)]
  obtain h | h := h
  · obtain hs | ⟨ea, hea, -, rfl⟩ := exec_sta_cases h
    · exact hstop hs
    · obtain ⟨h0, h1⟩ := hb ea hea
      exact s.followProgram.writeWord_byteAt ea s.a h0 h1
  · obtain hs | ⟨ea, w, hea, -, rfl⟩ := exec_im_cases h
    · exact hstop hs
    · obtain ⟨h0, h1⟩ := hb ea hea
      exact s.followProgram.writeWord_byteAt ea _ h0 h1

/-- Settles O52: a turned back instruction changes only what any may change, and each effect only its destinations. -/
theorem memoryReferenceFrames : Obligations.MemoryReferenceFrames := by
  intro m s t
  refine ⟨?load, ?add, fun hx h => ?ldx, fun h => ?exit, fun h => ?cp, fun h => ?mul, fun h => ?div, fun h => ?sta,
    fun h => ?im, exec_store_byteAt, fun h => ?b, fun h => ?shift⟩
  case load =>
    rintro (h | h)
    all_goals
      obtain hstop | ⟨w, rfl⟩ := State.withEffectiveWord_cases h
      · exact State.stopped_frame hstop fun u => { u with a := t.a }
      · rfl
  case add =>
    rintro (h | h)
    all_goals
      obtain hstop | ⟨w, rfl⟩ := State.withEffectiveWord_cases h
      · exact State.stopped_frame hstop fun u => { u with a := t.a, o := t.o, c := t.c }
      · rfl
  case ldx =>
    rw [exec_ldx_eq, if_neg (by simp [hx])] at h
    obtain hstop | ⟨w, rfl⟩ := State.withEffectiveWord_cases h
    · exact State.stopped_frame hstop fun u => { u with x1 := t.x1 }
    · rfl
  case exit =>
    obtain hstop | ⟨w0, w1, rfl⟩ := exec_ldxExitForm_cases h
    · exact State.stopped_frame hstop fun u =>
        { u with ii := t.ii, ei := t.ei, o := t.o, c := t.c, exitCondition := t.exitCondition }
    · rw [State.leave_frame]
      rfl
  case cp =>
    obtain hstop | ⟨w, rfl⟩ := State.withEffectiveWord_cases h
    · exact State.stopped_frame hstop fun u => { u with o := t.o, c := t.c }
    · rfl
  case mul =>
    obtain hstop | rfl | ⟨w, rfl⟩ := exec_mul_cases h
    · exact State.stopped_frame hstop fun u => { u with e := t.e, a := t.a, c := t.c }
    · exact State.turnedBack_frame (.inr ⟨_, rfl⟩) fun u => { u with
        e := (s.followProgram.refuse multiplyLevel).e
        a := (s.followProgram.refuse multiplyLevel).a
        c := (s.followProgram.refuse multiplyLevel).c }
    · rfl
  case div =>
    obtain hstop | rfl | ⟨w, rfl⟩ := exec_div_cases h
    · exact State.stopped_frame hstop fun u => { u with e := t.e, a := t.a, o := t.o, c := t.c }
    · exact State.turnedBack_frame (.inr ⟨_, rfl⟩) fun u => { u with
        e := (s.followProgram.refuse divideLevel).e
        a := (s.followProgram.refuse divideLevel).a
        o := (s.followProgram.refuse divideLevel).o
        c := (s.followProgram.refuse divideLevel).c }
    · rw [divideEffect_frame]
      rfl
  case sta =>
    obtain hstop | ⟨ea, -, -, rfl⟩ := exec_sta_cases h
    · exact State.stopped_frame hstop fun u => { u with mem := t.mem }
    · rfl
  case im =>
    obtain hstop | ⟨ea, w, -, -, rfl⟩ := exec_im_cases h
    · exact State.stopped_frame hstop fun u => { u with mem := t.mem, o := t.o, c := t.c }
    · rfl
  case b =>
    obtain hstop | ⟨ea, rfl⟩ := exec_b_cases h
    · exact State.stopped_frame hstop id
    · rfl
  case shift =>
    obtain hstop | ⟨ea, rfl⟩ := exec_shift_cases h
    · exact State.stopped_frame hstop fun u => { u with e := t.e, a := t.a, o := t.o, c := t.c }
    · rw [shiftEffect_frame]
      rfl

/-! ### The branches and the copies -/

/-- What any instruction may change is no general register but P. -/
theorem State.carried_gpr (s t : State) {r : Gpr} (h : r ≠ .p) : (s.carried t).gpr r = s.gpr r := by
  cases r with
  | p => exact absurd rfl h
  | z | l | t | x1 | x2 | e | a => rfl

/-- A load of a general register changes no other field than the registers and P. -/
theorem State.setGpr_frame (s : State) (r : Gpr) (v : Word) : s.setGpr r v = { s with
    p := (s.setGpr r v).p
    l := (s.setGpr r v).l
    t := (s.setGpr r v).t
    x1 := (s.setGpr r v).x1
    x2 := (s.setGpr r v).x2
    e := (s.setGpr r v).e
    a := (s.setGpr r v).a } := by
  cases r <;> rfl

/-- A load of a general register leaves O and C. -/
theorem State.setGpr_status (s : State) (r : Gpr) (v : Word) : s.setGpr r v = { s.setGpr r v with o := s.o, c := s.c } := by
  cases r <;> rfl

/-- An indicator branch changes P at most. -/
theorem State.branchIf_frame (s : State) (condition : Bool) (disp : BitVec 9) :
    s.branchIf condition disp = { s with p := (s.branchIf condition disp).p } := by
  unfold State.branchIf
  split <;> rfl

/-- An index branch changes P and X1 at most. -/
theorem State.branchOnIndex_frame (s : State) (disp : BitVec 9) :
    s.branchOnIndex disp = { s with p := (s.branchOnIndex disp).p, x1 := (s.branchOnIndex disp).x1 } := by
  unfold State.branchOnIndex State.branchIf
  split <;> rfl

/-- An indicator branch is a branch on some condition. -/
theorem exec_branch_eq {disp : BitVec 9} {i : Instr} (h : i ∈ [Instr.bno disp, .bnc disp, .baz disp, .ben disp, .ban disp]) :
    ∃ condition : State → Bool, ∀ s, exec i s = s.perform .plain fun s1 => .done (s1.branchIf (condition s1) disp) := by
  simp only [List.mem_cons, List.not_mem_nil, or_false] at h
  obtain rfl | rfl | rfl | rfl | rfl := h
  · exact ⟨fun s1 => !s1.o, fun _ => rfl⟩
  · exact ⟨fun s1 => !s1.c, fun _ => rfl⟩
  · exact ⟨fun s1 => s1.a == 0, fun _ => rfl⟩
  · exact ⟨fun s1 => s1.e.bit 0, fun _ => rfl⟩
  · exact ⟨fun s1 => s1.a.bit 0, fun _ => rfl⟩

/-- An index branch is a branch that counts, under some condition. -/
theorem exec_index_eq {disp : BitVec 9} {i : Instr} (h : i ∈ [Instr.bix disp, .bxno disp, .bxnc disp]) :
    ∃ skip : State → Bool, ∀ s, exec i s =
      s.perform .plain fun s1 => .done (if skip s1 then s1 else s1.branchOnIndex disp) := by
  simp only [List.mem_cons, List.not_mem_nil, or_false] at h
  obtain rfl | rfl | rfl := h
  · exact ⟨fun _ => false, fun _ => rfl⟩
  · exact ⟨State.o, fun _ => rfl⟩
  · exact ⟨State.c, fun _ => rfl⟩

/-- A copy loads its destination; only an addition writes O and C. -/
theorem copyEffect_cases (op : CopyOp) (ac ai cd : Bool) (f : CopyOperands) (s : State) :
    ∃ v o c, copyEffect op ac ai cd f s = { s.setGpr f.dr v with o := o, c := c } ∧ (op ≠ .add → o = s.o ∧ c = s.c) := by
  cases op with
  | add => exact ⟨_, _, _, rfl, fun h => absurd rfl h⟩
  | land | lor | lxor => exact ⟨_, s.o, s.c, State.setGpr_status _ _ _, fun _ => ⟨rfl, rfl⟩⟩

/-- Every copy instruction is a copy of some operation, the adding ones of addition. -/
theorem exec_copy_eq {f : CopyOperands} {op : CopyOp} {ac ai cd : Bool} {i : Instr}
    (h : i ∈ [Instr.rand f, .randi f, .randc f, .ror f, .rcpy f, .rori f, .rcpyi f, .rorc f, .rcpyc f, .reor f, .reori f,
      .reorc f, .radd f, .raddi f, .raddc f, .copy { op := op, ac := ac, ai := ai, cd := cd, operands := f }]) :
    ∃ op ac ai cd, (∀ s, exec i s = s.perform .plain fun s1 => .done (copyEffect op ac ai cd f s1)) ∧
      (op = .add → i ∈ [Instr.radd f, .raddi f, .raddc f] ∨ ∃ ac ai cd, i = .copy ⟨.add, ac, ai, cd, f⟩) := by
  simp only [List.mem_cons, List.not_mem_nil, or_false] at h
  obtain rfl | rfl | rfl | rfl | rfl | rfl | rfl | rfl | rfl | rfl | rfl | rfl | rfl | rfl | rfl | rfl := h
  case inr.inr.inr.inr.inr.inr.inr.inr.inr.inr.inr.inr.inr.inr.inr =>
    exact ⟨op, ac, ai, cd, fun _ => rfl, fun hadd => .inr ⟨ac, ai, cd, by rw [hadd]⟩⟩
  all_goals exact ⟨_, _, _, _, fun _ => rfl, by simp⟩

/-- Settles O53: a branch changes P and X1 at most, and a copy loads its destination. -/
theorem branchAndCopyFrames : Obligations.BranchAndCopyFrames := by
  refine ⟨fun disp s t i => ⟨fun hi h => ?branch, fun hi h => ?index⟩, fun f op ac ai cd s t i hi h => ?copy⟩
  case branch =>
    obtain ⟨condition, hexec⟩ := exec_branch_eq hi
    rw [hexec] at h
    obtain hstop | ⟨-, rfl⟩ := State.perform_done_cases (effect := fun s1 => s1.branchIf (condition s1) disp) h
    · exact State.stopped_carried hstop
    · rw [State.branchIf_frame]
      rfl
  case index =>
    obtain ⟨skip, hexec⟩ := exec_index_eq hi
    rw [hexec] at h
    obtain hstop | ⟨-, rfl⟩ :=
      State.perform_done_cases (effect := fun s1 => if skip s1 then s1 else s1.branchOnIndex disp) h
    · exact State.stopped_frame hstop fun u => { u with x1 := t.x1 }
    · split
      · rfl
      · rw [State.branchOnIndex_frame]
        rfl
  case copy =>
    obtain ⟨op, ac, ai, cd, hexec, hadd⟩ := exec_copy_eq hi
    rw [hexec] at h
    obtain hstop | ⟨-, rfl⟩ := State.perform_done_cases h
    · have ht := State.stopped_carried hstop
      have ho := congrArg State.o ht
      have hc := congrArg State.c ht
      refine ⟨fun r _ hp => ?_, State.stopped_frame hstop fun u =>
        { u with l := t.l, t := t.t, x1 := t.x1, x2 := t.x2, e := t.e, a := t.a, o := t.o, c := t.c }, fun _ _ => ⟨ho, hc⟩⟩
      rw [ht]
      exact State.carried_gpr s t hp
    · obtain ⟨v, o, c, hcopy, hkeep⟩ := copyEffect_cases op ac ai cd f s.followProgram
      rw [hcopy]
      refine ⟨fun r hr _ => ?_, ?_, fun hi1 hi2 => hkeep fun hop => ?_⟩
      · have hgpr := (s.followProgram.setGpr_gpr f.dr r v).trans (if_neg fun h => hr h.1)
        cases r <;> exact hgpr
      · rw [State.setGpr_frame]
        rfl
      · obtain hi | ⟨ac, ai, cd, hi⟩ := hadd hop
        · exact hi1 hi
        · exact hi2 ac ai cd hi

end Sys2Proof.Machine
end

section
/-! The frames of the rows of RD and WD (43_direct_control.md R192 to R222, 44_io.md R241). -/

namespace Sys2Proof.Machine

open Sys2Proof

/-! ### Frames of the effects -/

/-- A load of the register block changes the registers, P and the channel registers. -/
theorem State.setRegister_frame {s t : State} {n : BitVec 6} {v : Word} (h : s.setRegister n v = some t) : t = { s with
    p := t.p
    l := t.l
    t := t.t
    x1 := t.x1
    x2 := t.x2
    e := t.e
    a := t.a
    ch := t.ch } := by
  obtain ⟨-, rfl⟩ | ⟨-, -, rfl⟩ := State.setRegister_some h
  · rw [State.setGpr_frame]
  · rw [State.setChannel_frame]

/-- A load of the register block changes no general register but the one its number names. -/
theorem State.setRegister_gpr {s t : State} {n : BitVec 6} {v : Word} (h : s.setRegister n v = some t) {r : Gpr}
    (hr : n ≠ 0#3 ++ r.bits) : t.gpr r = s.gpr r := by
  obtain ⟨hlow, rfl⟩ | ⟨-, -, rfl⟩ := State.setRegister_some h
  · refine (s.setGpr_gpr _ r v).trans (if_neg fun ⟨heq, _⟩ => hr ?_)
    rw [Gpr.ofBits_eq_iff.1 heq.symm]
    refine BitVec.eq_of_toNat_eq ?_
    simp only [BitVec.toNat_append, BitVec.extractLsb'_toNat]
    simp
    omega
  · rw [State.setChannel_frame]
    cases r <;> rfl

/-- A load of the register block changes no channel register but the one its number names. -/
theorem State.setRegister_channel {s t : State} {n : BitVec 6} {v : Word} (h : s.setRegister n v = some t) {k : Nat}
    (hn : n.toNat ≠ 8 + k) : t.channel k = s.channel k := by
  have hchannels := ioChannels_le s.cfg
  obtain ⟨-, rfl⟩ | ⟨hlow, hhigh, rfl⟩ := State.setRegister_some h
  · rw [State.setGpr_frame]
    rfl
  · rw [State.setChannel_channel _ _ _ _ (by omega), if_neg (by omega)]

theorem protectionRegisterEffect_frame (r : BitVec 4) (s : State) :
    protectionRegisterEffect r s = { s with pr := (protectionRegisterEffect r s).pr } := by
  unfold protectionRegisterEffect
  split <;> rfl

/-- A command on the connector changes A, O, C and the connector; WD leaves A. -/
theorem State.presentCommand_frame (s : State) (cmd : DioCommand) : ∃ a o c dio replies, s.presentCommand cmd = { s with
    a := a, o := o, c := c, dio := dio, dioOut := some cmd, dioReplies := replies } ∧ (cmd.isWrite = true → a = s.a) := by
  unfold State.presentCommand
  split
  case h_1 r rest _ =>
    unfold State.acceptReply
    split
    case isTrue => exact ⟨s.a, _, _, s.dio, _, rfl, fun _ => rfl⟩
    case isFalse hw => exact ⟨_, _, _, s.dio, _, rfl, fun h => absurd h hw⟩
  case h_2 => exact ⟨s.a, s.o, s.c, _, s.dioReplies, rfl, fun _ => rfl⟩

/-- An I/O instruction that is done changes A, O, C and the devices, if its action on the device does no more. -/
theorem State.withDevice_frame {s t : State} {k : Device → State} (h : s.withDevice k = .done t)
    (hk : ∀ d, k d = { s with a := (k d).a, o := (k d).o, c := (k d).c, devices := (k d).devices }) :
    t = { s with a := t.a, o := t.o, c := t.c, devices := t.devices } := by
  obtain rfl | ⟨d, -, rfl⟩ := State.withDevice_done h
  · rfl
  · exact hk d

theorem State.startIo_frame (s : State) (phase : Phase) (d : Device) : s.startIo phase d = { s with
    a := (s.startIo phase d).a
    o := (s.startIo phase d).o
    c := (s.startIo phase d).c
    devices := (s.startIo phase d).devices } := by
  unfold State.startIo
  split <;> rfl

theorem State.haltDevice_frame (s : State) (d : Device) :
    s.haltDevice d = { s with devices := (s.haltDevice d).devices } := by
  unfold State.haltDevice
  dsimp only
  split <;> rfl

theorem aioEffect_frame (s : State) : aioEffect s = { s with
    a := (aioEffect s).a, o := (aioEffect s).o, c := (aioEffect s).c, devices := (aioEffect s).devices } := by
  unfold aioEffect
  split <;> rfl

/-! ### The rows -/

/-- Interrupt control, code by code, is an action on the levels of its group. -/
theorem exec_interruptControl_eq {g : BitVec 4} {i : Instr}
    (h : i ∈ [Instr.wdInterruptControl001 g, .wdInterruptControl010 g, .wdInterruptControl011 g,
      .wdInterruptControl100 g, .wdInterruptControl101 g, .wdInterruptControl110 g, .wdInterruptControl111 g]) :
    ∃ act, ∀ s, exec i s = s.perform .privileged fun s1 => .done (s1.controlLevels g act) := by
  simp only [List.mem_cons, List.not_mem_nil, or_false] at h
  obtain rfl | rfl | rfl | rfl | rfl | rfl | rfl := h
  · exact ⟨disarmCell, fun _ => rfl⟩
  · exact ⟨armEnableCell, fun _ => rfl⟩
  · exact ⟨armDisableCell, fun _ => rfl⟩
  · exact ⟨enableCell, fun _ => rfl⟩
  · exact ⟨disableCell, fun _ => rfl⟩
  · exact ⟨enableOnlyCell, fun _ => rfl⟩
  · exact ⟨triggerCell, fun _ => rfl⟩

/-- The rows of RD that read change A alone. -/
theorem exec_read_frame {s t : State} {n : BitVec 6} {instr : Instr} (h : exec instr s = .next t)
    (hi : instr ∈ [Instr.rdRegister n, .rdDataSwitches, .rdSaveStatus]) : t = { s.carried t with a := t.a } := by
  simp only [List.mem_cons, List.not_mem_nil, or_false] at hi
  obtain rfl | rfl | rfl := hi
  · obtain hstop | ⟨-, hdone⟩ := State.perform_cases h
    · exact State.stopped_frame hstop fun u => { u with a := t.a }
    · obtain ⟨v, -, rfl⟩ := rdRegisterEffect_done hdone
      rfl
  · obtain hstop | ⟨-, rfl⟩ := State.perform_done_cases (effect := fun s1 => { s1 with a := s1.panel.data }) h
    · exact State.stopped_frame hstop fun u => { u with a := t.a }
    · rfl
  · obtain hstop | ⟨-, rfl⟩ := State.perform_done_cases (effect := State.saveStatus) h
    · exact State.stopped_frame hstop fun u => { u with a := t.a }
    · rfl


theorem exec_saveInhibits_frame {s t : State} {i e : Bool} {instr : Instr} (h : exec instr s = .next t)
    (hi : instr ∈ [Instr.rdSaveStatusResetInhibits i e, .rdSaveStatusSetInhibits i e]) :
    t = { s.carried t with a := t.a, ii := t.ii, ei := t.ei } ∧ (i = false → t.ii = s.ii) ∧ (e = false → t.ei = s.ei) := by
  have hkept (hstop : s.stopped t) : t = { s.carried t with a := t.a, ii := t.ii, ei := t.ei } ∧
      (i = false → t.ii = s.ii) ∧ (e = false → t.ei = s.ei) := by
    have ht := State.stopped_carried hstop
    have hii := congrArg State.ii ht
    have hei := congrArg State.ei ht
    exact ⟨State.stopped_frame hstop fun u => { u with a := t.a, ii := t.ii, ei := t.ei }, fun _ => hii, fun _ => hei⟩
  simp only [List.mem_cons, List.not_mem_nil, or_false] at hi
  obtain rfl | rfl := hi
  · obtain hstop | ⟨-, rfl⟩ := State.perform_done_cases (effect := fun s1 => s1.saveStatus.resetInhibits i e) h
    · exact hkept hstop
    · rw [State.resetInhibits_eq]
      exact ⟨rfl, fun hn => if_neg (by simp [hn]), fun hn => if_neg (by simp [hn])⟩
  · obtain hstop | ⟨-, rfl⟩ := State.perform_done_cases (effect := fun s1 => s1.saveStatus.setInhibits i e) h
    · exact hkept hstop
    · rw [State.setInhibits_eq]
      exact ⟨rfl, fun hn => if_neg (by simp [hn]), fun hn => if_neg (by simp [hn])⟩


theorem exec_wdRegister_frame {s t : State} {n : BitVec 6} (h : exec (.wdRegister n) s = .next t) :
    t = { s.carried t with l := t.l, t := t.t, x1 := t.x1, x2 := t.x2, e := t.e, a := t.a, ch := t.ch } := by
  obtain hstop | ⟨-, hdone⟩ := State.perform_cases h
  · exact State.stopped_frame hstop fun u =>
      { u with l := t.l, t := t.t, x1 := t.x1, x2 := t.x2, e := t.e, a := t.a, ch := t.ch }
  · rw [State.setRegister_frame (wdRegisterEffect_done hdone)]
    rfl


theorem exec_wdTestAndResetBit0_frame {s t : State} {n : BitVec 6} (h : exec (.wdTestAndResetBit0 n) s = .next t) :
    t = { s.carried t with
      l := t.l, t := t.t, x1 := t.x1, x2 := t.x2, e := t.e, a := t.a, ch := t.ch, o := t.o } := by
  obtain hstop | ⟨-, hdone⟩ := State.perform_cases h
  · exact State.stopped_frame hstop fun u =>
      { u with l := t.l, t := t.t, x1 := t.x1, x2 := t.x2, e := t.e, a := t.a, ch := t.ch, o := t.o }
  · obtain ⟨v, s1, -, hset, rfl⟩ := testAndResetEffect_done hdone
    rw [State.setRegister_frame hset]
    rfl


/-- The rows that load a register change no other one, but P. -/
theorem exec_registerLoad_others {s t : State} {n : BitVec 6} {instr : Instr} (h : exec instr s = .next t)
    (hi : instr = .wdRegister n ∨ instr = .wdTestAndResetBit0 n) :
    (∀ reg : Gpr, n ≠ 0#3 ++ reg.bits → reg ≠ .p → t.gpr reg = s.gpr reg) ∧
    ∀ k : Nat, k < 40 → n.toNat ≠ 8 + k → t.channel k = s.channel k := by
  have hkept (hstop : s.stopped t) : (∀ reg : Gpr, n ≠ 0#3 ++ reg.bits → reg ≠ .p → t.gpr reg = s.gpr reg) ∧
      ∀ k : Nat, k < 40 → n.toNat ≠ 8 + k → t.channel k = s.channel k := by
    have ht := State.stopped_carried hstop
    have hch := congrArg State.ch ht
    refine ⟨fun reg _ hp => ?_, fun k _ _ => ?_⟩
    · rw [ht]
      exact State.carried_gpr s t hp
    · rw [State.channel, hch]
      rfl
  obtain rfl | rfl := hi
  · obtain hstop | ⟨-, hdone⟩ := State.perform_cases h
    · exact hkept hstop
    · have hset := wdRegisterEffect_done hdone
      refine ⟨fun reg hreg _ => (State.setRegister_gpr hset hreg).trans ?_, fun k _ hk => State.setRegister_channel hset hk⟩
      cases reg <;> rfl
  · obtain hstop | ⟨-, hdone⟩ := State.perform_cases h
    · exact hkept hstop
    · obtain ⟨v, s1, -, hset, rfl⟩ := testAndResetEffect_done hdone
      refine ⟨fun reg hreg _ => ?_, fun k _ hk => State.setRegister_channel hset hk⟩
      have hgpr := State.setRegister_gpr hset hreg
      cases reg <;> exact hgpr


theorem exec_wdInhibits_frame {s t : State} {i e : Bool} {instr : Instr} (h : exec instr s = .next t)
    (hi : instr ∈ [Instr.wdResetInhibits i e, .wdSetInhibits i e]) :
    t = { s.carried t with ii := t.ii, ei := t.ei } := by
  simp only [List.mem_cons, List.not_mem_nil, or_false] at hi
  obtain rfl | rfl := hi
  · obtain hstop | ⟨-, rfl⟩ := State.perform_done_cases (effect := fun s1 => s1.resetInhibits i e) h
    · exact State.stopped_frame hstop fun u => { u with ii := t.ii, ei := t.ei }
    · rfl
  · obtain hstop | ⟨-, rfl⟩ := State.perform_done_cases (effect := fun s1 => s1.setInhibits i e) h
    · exact State.stopped_frame hstop fun u => { u with ii := t.ii, ei := t.ei }
    · rfl


theorem exec_watchdog_frame {s t : State} {instr : Instr} (h : exec instr s = .next t)
    (hi : instr ∈ [Instr.wdWatchdogEnable, .wdWatchdogDisable, .wdWatchdogResetTimer]) : t = { s.carried t with
      o := t.o, c := t.c, free := t.free, wdEnabled := t.wdEnabled, wdHangup := t.wdHangup, dioOut := t.dioOut } := by
  have hframe {ea : Word} {act : State → State}
      (hact : ∀ s1, act s1 = { s1 with wdEnabled := (act s1).wdEnabled, wdHangup := (act s1).wdHangup })
      (h : s.perform .privileged (watchdogEffect ea act) = .next t) : t = { s.carried t with
        o := t.o, c := t.c, free := t.free, wdEnabled := t.wdEnabled, wdHangup := t.wdHangup, dioOut := t.dioOut } := by
    obtain hstop | ⟨-, hdone⟩ := State.perform_cases h
    · exact State.stopped_frame hstop fun u => { u with
        o := t.o, c := t.c, free := t.free, wdEnabled := t.wdEnabled, wdHangup := t.wdHangup, dioOut := t.dioOut }
    · obtain ⟨-, rfl⟩ := watchdogEffect_done hdone
      rw [hact]
      rfl
  simp only [List.mem_cons, List.not_mem_nil, or_false] at hi
  obtain rfl | rfl | rfl := hi
  · exact hframe (act := State.enableWatchdog) (fun _ => rfl) h
  · exact hframe (act := State.disableWatchdog) (fun _ => rfl) h
  · exact hframe (act := id) (fun _ => rfl) h


theorem exec_directIO_frame {s t : State} {ea : Word} {instr : Instr} (h : exec instr s = .next t)
    (hi : instr ∈ [Instr.rdDirectIO ea, .wdDirectIO ea]) :
    t = { s.carried t with
      a := t.a, o := t.o, c := t.c, dio := t.dio, dioOut := t.dioOut, dioReplies := t.dioReplies } ∧
    (instr = .wdDirectIO ea → t.a = s.a) := by
  have hframe {write : Bool} (h : s.perform .privileged (directIoEffect write ea) = .next t) :
      t = { s.carried t with
        a := t.a, o := t.o, c := t.c, dio := t.dio, dioOut := t.dioOut, dioReplies := t.dioReplies } ∧
      (write = true → t.a = s.a) := by
    obtain hstop | ⟨-, hdone⟩ := State.perform_cases h
    · have ha := congrArg State.a (State.stopped_carried hstop)
      exact ⟨State.stopped_frame hstop fun u => { u with
        a := t.a, o := t.o, c := t.c, dio := t.dio, dioOut := t.dioOut, dioReplies := t.dioReplies }, fun _ => ha⟩
    · obtain ⟨-, rfl⟩ := directIoEffect_done hdone
      obtain ⟨a, o, c, dio, replies, hcommand, ha⟩ :=
        s.followProgram.presentCommand_frame (if write then .write ea s.a else .read ea)
      refine hcommand ▸ ⟨rfl, fun hw => ha ?_⟩
      rw [if_pos hw]
      rfl
  simp only [List.mem_cons, List.not_mem_nil, or_false] at hi
  obtain rfl | rfl := hi
  · exact ⟨(hframe h).1, nofun⟩
  · exact ⟨(hframe h).1, fun _ => (hframe h).2 rfl⟩


theorem exec_test_frame {s t : State} {instr : Instr} (h : exec instr s = .next t)
    (hi : instr ∈ [Instr.tio, .tdv]) : t = { s.carried t with a := t.a, o := t.o, c := t.c } := by
  simp only [List.mem_cons, List.not_mem_nil, or_false] at hi
  have hframe {k : State → Device → State} (hk : ∀ s1 d, k s1 d = { s1 with a := (k s1 d).a, o := (k s1 d).o, c := (k s1 d).c })
      (h : s.perform .privileged (fun s1 => s1.withDevice (k s1)) = .next t) :
      t = { s.carried t with a := t.a, o := t.o, c := t.c } := by
    obtain hstop | ⟨-, hdone⟩ := State.perform_cases h
    · exact State.stopped_frame hstop fun u => { u with a := t.a, o := t.o, c := t.c }
    · obtain rfl | ⟨d, -, rfl⟩ := State.withDevice_done hdone
      · rfl
      · rw [hk]
        rfl
  obtain rfl | rfl := hi
  · exact hframe (k := fun s1 d => s1.respond (Device.statusByte d) false (!d.accepts)) (fun _ _ => rfl) h
  · exact hframe (k := fun s1 d => s1.respond d.tdvStatus false d.tdvCondition) (fun _ _ => rfl) h


theorem exec_halt_frame {s t : State} {instr : Instr} (h : exec instr s = .next t)
    (hi : instr ∈ [Instr.hio, .aio]) :
    t = { s.carried t with a := t.a, o := t.o, c := t.c, devices := t.devices } := by
  simp only [List.mem_cons, List.not_mem_nil, or_false] at hi
  obtain rfl | rfl := hi
  · obtain hstop | ⟨-, hdone⟩ := State.perform_cases h
    · exact State.stopped_frame hstop fun u => { u with a := t.a, o := t.o, c := t.c, devices := t.devices }
    · rw [State.withDevice_frame hdone fun d => by rw [State.haltDevice_frame]; rfl]
      rfl
  · obtain hstop | ⟨-, rfl⟩ := State.perform_done_cases (effect := aioEffect) h
    · exact State.stopped_frame hstop fun u => { u with a := t.a, o := t.o, c := t.c, devices := t.devices }
    · rw [aioEffect_frame]
      rfl


theorem exec_sio_frame {s t : State} (h : exec .sio s = .next t) (hload : s.loadCondition = false) :
    t = { s.carried t with a := t.a, o := t.o, c := t.c, devices := t.devices } := by
  obtain hstop | ⟨-, hdone⟩ := State.perform_cases h
  · exact State.stopped_frame hstop fun u => { u with a := t.a, o := t.o, c := t.c, devices := t.devices }
  · rw [sioEffect, if_neg (by simp [hload])] at hdone
    rw [State.withDevice_frame hdone (State.startIo_frame _ _)]
    rfl


/-- Settles O54, row by row: a stopped row changes only what any instruction may change, and an effect that is done
changes its own destinations. -/
theorem directControlFrames : Obligations.DirectControlFrames := by
  intro s t n r g i e ea instr h
  refine ⟨exec_read_frame h, exec_saveInhibits_frame h, ?register, ?testAndReset, exec_registerLoad_others h,
    ?protection, ?status, ?wait, ?exit, exec_wdInhibits_frame h, fun hi => ?interrupts, exec_watchdog_frame h,
    exec_directIO_frame h, exec_test_frame h, exec_halt_frame h, ?sio⟩
  case register =>
    rintro rfl
    exact exec_wdRegister_frame h
  case testAndReset =>
    rintro rfl
    exact exec_wdTestAndResetBit0_frame h
  case protection =>
    rintro rfl
    obtain hstop | ⟨-, rfl⟩ := State.perform_done_cases (effect := protectionRegisterEffect r) h
    · exact State.stopped_frame hstop fun u => { u with pr := t.pr }
    · rw [protectionRegisterEffect_frame]
      rfl
  case status =>
    rintro rfl
    obtain hstop | ⟨-, rfl⟩ := State.perform_done_cases (effect := fun s1 => s1.loadStatus s1.a) h
    · exact State.stopped_frame hstop fun u => { u with ii := t.ii, ei := t.ei, o := t.o, c := t.c }
    · rfl
  case wait =>
    rintro rfl
    obtain hstop | ⟨-, rfl⟩ := State.perform_done_cases (effect := fun s1 => { s1 with wff := true }) h
    · exact State.stopped_carried hstop
    · rfl
  case exit =>
    rintro rfl
    obtain hstop | ⟨-, rfl⟩ := State.perform_done_cases (effect := fun s1 => { s1 with exitCondition := true }) h
    · exact State.stopped_frame hstop fun u => { u with exitCondition := t.exitCondition }
    · rfl
  case interrupts =>
    obtain ⟨act, hexec⟩ := exec_interruptControl_eq hi
    obtain hstop | ⟨-, rfl⟩ := State.perform_done_cases (effect := fun s1 => s1.controlLevels g act) ((hexec s).symm.trans h)
    · exact State.stopped_carried hstop
    · rfl
  case sio =>
    rintro rfl hload
    exact exec_sio_frame h hload

end Sys2Proof.Machine
end

section
/-! What no instruction changes: memory but by stores, levels but by interrupt control, and what unprotected programs cannot
reach at all (60_exceptions.md R303, R307; 43_direct_control.md R210). -/

namespace Sys2Proof.Machine

open Sys2Proof

/-! ### The unprivileged instructions -/

/-- `t` comes from `s` by an effect on general registers, P, PP and indicators. -/
structure State.ProgramFrame (s t : State) : Prop where
  cfg : t.cfg = s.cfg
  mem : t.mem = s.mem
  levels : t.levels = s.levels
  pr : t.pr = s.pr
  ch : t.ch = s.ch
  ii : t.ii = s.ii
  ei : t.ei = s.ei
  exitCondition : t.exitCondition = s.exitCondition
  devices : t.devices = s.devices
  dioOut : t.dioOut = s.dioOut

/-- An effect that writes registers, P, PP and indicators only. -/
theorem State.ProgramFrame.of_eq {s t : State} (cfg : t.cfg = s.cfg := by rfl)
    (mem : t.mem = s.mem := by rfl) (levels : t.levels = s.levels := by rfl)
    (pr : t.pr = s.pr := by rfl) (ch : t.ch = s.ch := by rfl) (ii : t.ii = s.ii := by rfl) (ei : t.ei = s.ei := by rfl)
    (exitCondition : t.exitCondition = s.exitCondition := by rfl) (devices : t.devices = s.devices := by rfl)
    (dioOut : t.dioOut = s.dioOut := by rfl) : s.ProgramFrame t :=
  ⟨cfg, mem, levels, pr, ch, ii, ei, exitCondition, devices, dioOut⟩

/-- An instruction that loads registers from its effective word. -/
theorem State.withEffectiveWord_frame {s t : State} {m : MemRef} {effect : State → Word → State}
    (h : s.withEffectiveWord m effect = .next t) (heffect : ∀ w, s.ProgramFrame (effect s.followProgram w)) :
    s.turnedBack t ∨ s.ProgramFrame t := by
  obtain hstop | ⟨w, rfl⟩ := State.withEffectiveWord_cases h
  · exact .inl (.inl hstop)
  · exact .inr (heffect w)

/-- A copy or a branch. -/
theorem State.perform_done_frame {s t : State} {check : Check} {effect : State → State}
    (h : s.perform check (fun s1 => .done (effect s1)) = .next t) (heffect : s.ProgramFrame (effect s.followProgram)) :
    s.turnedBack t ∨ s.ProgramFrame t := by
  obtain hstop | ⟨-, rfl⟩ := State.perform_done_cases h
  · exact .inl (.inl hstop)
  · exact .inr heffect

theorem exec_branch_frame {disp : BitVec 9} {i : Instr} {s t : State} (h : exec i s = .next t)
    (hi : i ∈ [Instr.bno disp, .bnc disp, .baz disp, .ben disp, .ban disp]) : s.turnedBack t ∨ s.ProgramFrame t := by
  obtain ⟨condition, hexec⟩ := exec_branch_eq hi
  refine State.perform_done_frame (effect := fun s1 => s1.branchIf (condition s1) disp) ((hexec s).symm.trans h) ?_
  rw [State.branchIf_frame]
  exact .of_eq

theorem exec_index_frame {disp : BitVec 9} {i : Instr} {s t : State} (h : exec i s = .next t)
    (hi : i ∈ [Instr.bix disp, .bxno disp, .bxnc disp]) : s.turnedBack t ∨ s.ProgramFrame t := by
  obtain ⟨skip, hexec⟩ := exec_index_eq hi
  refine State.perform_done_frame (effect := fun s1 => if skip s1 then s1 else s1.branchOnIndex disp)
    ((hexec s).symm.trans h) ?_
  split
  · exact .of_eq
  · rw [State.branchOnIndex_frame]
    exact .of_eq

theorem exec_copy_frame {f : CopyOperands} {op : CopyOp} {ac ai cd : Bool} {i : Instr} {s t : State}
    (h : exec i s = .next t)
    (hi : i ∈ [Instr.rand f, .randi f, .randc f, .ror f, .rcpy f, .rori f, .rcpyi f, .rorc f, .rcpyc f, .reor f, .reori f,
      .reorc f, .radd f, .raddi f, .raddc f, .copy { op := op, ac := ac, ai := ai, cd := cd, operands := f }]) :
    s.turnedBack t ∨ s.ProgramFrame t := by
  obtain ⟨op, ac, ai, cd, hexec, -⟩ := exec_copy_eq hi
  refine State.perform_done_frame (effect := copyEffect op ac ai cd f) ((hexec s).symm.trans h) ?_
  obtain ⟨v, o, c, hcopy, -⟩ := copyEffect_cases op ac ai cd f s.followProgram
  rw [hcopy, State.setGpr_frame]
  exact .of_eq

/-- An unprivileged instruction outside an exit sequence that does not store writes registers, P and indicators, unless it
is turned back. -/
theorem exec_program_frame {i : Instr} {s t : State} (h : exec i s = .next t) (hi : isPrivileged i = false)
    (hexit : ∀ m, i = .ldx m → s.exitCondition = false) (hform : ∀ m, i ≠ .ldxExitForm m) (hsta : ∀ m, i ≠ .sta m)
    (him : ∀ m, i ≠ .im m) : s.turnedBack t ∨ s.ProgramFrame t := by
  cases i with
  | sta m => exact absurd rfl (hsta m)
  | im m => exact absurd rfl (him m)
  | ldxExitForm m => exact absurd rfl (hform m)
  | lda m | and m | add m | sub m | cp m => exact State.withEffectiveWord_frame h fun _ => .of_eq
  | ldx m =>
    rw [exec_ldx_eq, if_neg (by simp [hexit m rfl])] at h
    exact State.withEffectiveWord_frame h fun _ => .of_eq
  | mul m =>
    obtain hstop | rfl | ⟨w, rfl⟩ := exec_mul_cases h
    · exact .inl (.inl hstop)
    · exact .inl (.inr ⟨_, rfl⟩)
    · exact .inr .of_eq
  | div m =>
    obtain hstop | rfl | ⟨w, rfl⟩ := exec_div_cases h
    · exact .inl (.inl hstop)
    · exact .inl (.inr ⟨_, rfl⟩)
    · rw [divideEffect_frame]
      exact .inr .of_eq
  | b m =>
    obtain hstop | ⟨ea, rfl⟩ := exec_b_cases h
    · exact .inl (.inl hstop)
    · exact .inr .of_eq
  | shift m =>
    obtain hstop | ⟨ea, rfl⟩ := exec_shift_cases h
    · exact .inl (.inl hstop)
    · rw [shiftEffect_frame]
      exact .inr .of_eq
  | bno disp | bnc disp | baz disp | ben disp | ban disp => exact exec_branch_frame (disp := disp) h (by simp)
  | bix disp | bxno disp | bxnc disp => exact exec_index_frame (disp := disp) h (by simp)
  | copy f => exact exec_copy_frame (f := f.operands) (op := f.op) (ac := f.ac) (ai := f.ai) (cd := f.cd) h (by simp)
  | rand f | randi f | randc f | ror f | rcpy f | rori f | rcpyi f | rorc f | rcpyc f | reor f | reori f | reorc f
  | radd f | raddi f | raddc f =>
    exact exec_copy_frame (f := f) (op := .land) (ac := false) (ai := false) (cd := false) h (by simp)
  | wd _ | rd _ | sio | tio | tdv | hio | aio | rdRegister _ | rdDataSwitches | rdSaveStatus
  | rdSaveStatusResetInhibits _ _ | rdSaveStatusSetInhibits _ _ | rdDirectIO _ | wdRegister _ | wdTestAndResetBit0 _
  | wdProtectionRegister _ | wdLoadStatus | wdWait | wdExit | wdResetInhibits _ _ | wdSetInhibits _ _
  | wdInterruptControl001 _ | wdInterruptControl010 _ | wdInterruptControl011 _ | wdInterruptControl100 _
  | wdInterruptControl101 _ | wdInterruptControl110 _ | wdInterruptControl111 _ | wdWatchdogDisable | wdWatchdogEnable
  | wdWatchdogResetTimer | wdDirectIO _ => exact absurd hi nofun

/-! ### The rows of RD and WD -/

/-- The effect of a row changes neither memory nor a level. -/
def State.KeepsMemoryAndLevels (s t : State) : Prop :=
  t.mem = s.mem ∧ t.levels = s.levels

/-- The WD rows of interrupt control for a group (43_direct_control.md R210). -/
def interruptControls (g : BitVec 4) : List WdFunction :=
  [.interruptControl001 g, .interruptControl010 g, .interruptControl011 g, .interruptControl100 g, .interruptControl101 g,
    .interruptControl110 g, .interruptControl111 g]

theorem State.prepareLoad_keeps (s : State) : s.KeepsMemoryAndLevels s.prepareLoad := by
  unfold State.prepareLoad State.setChannelEven State.setChannelOdd
  dsimp only
  split
  · rw [State.setChannel_frame (s.setChannel _ _), State.setChannel_frame s]
    exact ⟨rfl, rfl⟩
  · exact ⟨rfl, rfl⟩

theorem State.withDevice_keeps {s t : State} {k : Device → State} (h : s.withDevice k = .done t)
    (hk : ∀ d, s.KeepsMemoryAndLevels (k d)) : s.KeepsMemoryAndLevels t := by
  obtain rfl | ⟨d, -, rfl⟩ := State.withDevice_done h
  · exact ⟨rfl, rfl⟩
  · exact hk d

theorem sioEffect_keeps {s t : State} (h : sioEffect s = .done t) : s.KeepsMemoryAndLevels t := by
  unfold sioEffect at h
  split at h
  · obtain ⟨hmem, hlevels⟩ := s.prepareLoad_keeps
    have hstart : s.prepareLoad.KeepsMemoryAndLevels t := State.withDevice_keeps h fun d => by
      rw [State.startIo_frame]
      exact ⟨rfl, rfl⟩
    exact ⟨hstart.1.trans hmem, hstart.2.trans hlevels⟩
  · exact State.withDevice_keeps h fun d => by
      rw [State.startIo_frame]
      exact ⟨rfl, rfl⟩

theorem directIoEffect_keeps {s t : State} {write : Bool} {ea : Word} (h : directIoEffect write ea s = .done t) :
    s.KeepsMemoryAndLevels t := by
  obtain ⟨-, rfl⟩ := directIoEffect_done h
  obtain ⟨a, o, c, dio, replies, hcommand, -⟩ := s.presentCommand_frame (if write then .write ea s.a else .read ea)
  exact hcommand ▸ ⟨rfl, rfl⟩

theorem State.perform_keeps {s t : State} {check : Check} {effect : State → Effect}
    (h : s.perform check effect = .next t)
    (heffect : ∀ t, effect s.followProgram = .done t → s.followProgram.KeepsMemoryAndLevels t) :
    s.stopped t ∨ s.KeepsMemoryAndLevels t := by
  obtain hstop | ⟨-, hdone⟩ := State.perform_cases h
  · exact .inl hstop
  · exact .inr (heffect t hdone)

theorem State.perform_done_keeps {s t : State} {check : Check} {effect : State → State}
    (h : s.perform check (fun s1 => .done (effect s1)) = .next t)
    (heffect : s.followProgram.KeepsMemoryAndLevels (effect s.followProgram)) :
    s.stopped t ∨ s.KeepsMemoryAndLevels t := by
  obtain hstop | ⟨-, rfl⟩ := State.perform_done_cases h
  · exact .inl hstop
  · exact .inr heffect

/-- A row of RD that goes on is stopped, or leaves memory and the levels. -/
theorem rdFunction_cases {f : RdFunction} {s t : State} (h : exec f.instr s = .next t) :
    s.stopped t ∨ s.KeepsMemoryAndLevels t := by
  cases f with
  | register n =>
    refine State.perform_keeps h fun t hdone => ?_
    obtain ⟨v, -, rfl⟩ := rdRegisterEffect_done hdone
    exact ⟨rfl, rfl⟩
  | sio => exact State.perform_keeps h fun _ => sioEffect_keeps
  | tio => exact State.perform_keeps h fun _ hdone => State.withDevice_keeps hdone fun _ => ⟨rfl, rfl⟩
  | tdv => exact State.perform_keeps h fun _ hdone => State.withDevice_keeps hdone fun _ => ⟨rfl, rfl⟩
  | hio =>
    refine State.perform_keeps h fun _ hdone => State.withDevice_keeps hdone fun d => ?_
    rw [State.haltDevice_frame]
    exact ⟨rfl, rfl⟩
  | aio =>
    refine State.perform_done_keeps (effect := aioEffect) h ?_
    rw [aioEffect_frame]
    exact ⟨rfl, rfl⟩
  | dataSwitches => exact State.perform_done_keeps (effect := fun s1 => { s1 with a := s1.panel.data }) h ⟨rfl, rfl⟩
  | saveStatus => exact State.perform_done_keeps (effect := State.saveStatus) h ⟨rfl, rfl⟩
  | saveStatusResetInhibits i e =>
    exact State.perform_done_keeps (effect := fun s1 => s1.saveStatus.resetInhibits i e) h ⟨rfl, rfl⟩
  | saveStatusSetInhibits i e =>
    exact State.perform_done_keeps (effect := fun s1 => s1.saveStatus.setInhibits i e) h ⟨rfl, rfl⟩
  | directIO ea => exact State.perform_keeps h fun _ => directIoEffect_keeps

/-- A row of WD that goes on is stopped, or leaves memory and the levels, or is interrupt control, which leaves memory. -/
theorem wdFunction_cases {f : WdFunction} {s t : State} (h : exec f.instr s = .next t) :
    s.stopped t ∨ s.KeepsMemoryAndLevels t ∨ ∃ g act, f ∈ interruptControls g ∧ t = s.followProgram.controlLevels g act := by
  have hcontrol {g : BitVec 4} (hf : f ∈ interruptControls g) :
      s.stopped t ∨ s.KeepsMemoryAndLevels t ∨ ∃ g act, f ∈ interruptControls g ∧ t = s.followProgram.controlLevels g act := by
    obtain ⟨act, hexec⟩ := exec_interruptControl_eq (List.mem_map_of_mem (f := WdFunction.instr) hf)
    obtain hstop | ⟨-, ht⟩ := State.perform_done_cases (effect := fun s1 => s1.controlLevels g act) ((hexec s).symm.trans h)
    · exact .inl hstop
    · exact .inr (.inr ⟨g, act, hf, ht⟩)
  have hkeeps (hor : s.stopped t ∨ s.KeepsMemoryAndLevels t) :
      s.stopped t ∨ s.KeepsMemoryAndLevels t ∨ ∃ g act, f ∈ interruptControls g ∧ t = s.followProgram.controlLevels g act :=
    hor.imp_right .inl
  cases f with
  | register n =>
    refine hkeeps (State.perform_keeps h fun t hdone => ?_)
    rw [State.setRegister_frame (wdRegisterEffect_done hdone)]
    exact ⟨rfl, rfl⟩
  | testAndResetBit0 n =>
    refine hkeeps (State.perform_keeps h fun t hdone => ?_)
    obtain ⟨v, s1, -, hset, rfl⟩ := testAndResetEffect_done hdone
    rw [State.setRegister_frame hset]
    exact ⟨rfl, rfl⟩
  | protectionRegister r =>
    refine hkeeps (State.perform_done_keeps (effect := protectionRegisterEffect r) h ?_)
    rw [protectionRegisterEffect_frame]
    exact ⟨rfl, rfl⟩
  | loadStatus => exact hkeeps (State.perform_done_keeps (effect := fun s1 => s1.loadStatus s1.a) h ⟨rfl, rfl⟩)
  | wait => exact hkeeps (State.perform_done_keeps (effect := fun s1 => { s1 with wff := true }) h ⟨rfl, rfl⟩)
  | exit => exact hkeeps (State.perform_done_keeps (effect := fun s1 => { s1 with exitCondition := true }) h ⟨rfl, rfl⟩)
  | resetInhibits i e => exact hkeeps (State.perform_done_keeps (effect := fun s1 => s1.resetInhibits i e) h ⟨rfl, rfl⟩)
  | setInhibits i e => exact hkeeps (State.perform_done_keeps (effect := fun s1 => s1.setInhibits i e) h ⟨rfl, rfl⟩)
  | interruptControl001 g | interruptControl010 g | interruptControl011 g | interruptControl100 g
  | interruptControl101 g | interruptControl110 g | interruptControl111 g =>
    exact hcontrol (g := g) (by simp [interruptControls])
  | watchdogDisable | watchdogEnable | watchdogResetTimer =>
    refine hkeeps (State.perform_keeps h fun t hdone => ?_)
    obtain ⟨-, rfl⟩ := watchdogEffect_done hdone
    exact ⟨rfl, rfl⟩
  | directIO ea => exact hkeeps (State.perform_keeps h fun _ => directIoEffect_keeps)

/-- RD or one of its rows, if it goes on, is stopped, or leaves memory and the levels. -/
theorem exec_rd_keeps {m : MemRef} {s t : State} (h : exec (.rd m) s = .next t) :
    s.stopped t ∨ s.KeepsMemoryAndLevels t := by
  obtain hstop | ⟨f, hf⟩ := exec_rd_cases h
  · exact .inl hstop
  · exact rdFunction_cases hf

theorem exec_wd_mem {m : MemRef} {s t : State} (h : exec (.wd m) s = .next t) : t.mem = s.mem := by
  obtain hstop | ⟨f, hf⟩ := exec_wd_cases h
  · exact State.turnedBack_mem (.inl hstop)
  · obtain hstop | ⟨hmem, -⟩ | ⟨g, act, -, rfl⟩ := wdFunction_cases hf
    · exact State.turnedBack_mem (.inl hstop)
    · exact hmem
    · rfl

/-- A privileged instruction is RD or WD of an effective address, or one of their rows. -/
theorem privileged_cases {i : Instr} (h : isPrivileged i = true) :
    (∃ m, i = .rd m) ∨ (∃ m, i = .wd m) ∨ (∃ f : RdFunction, i = f.instr) ∨ ∃ f : WdFunction, i = f.instr := by
  cases i with
  | rd m => exact .inl ⟨m, rfl⟩
  | wd m => exact .inr (.inl ⟨m, rfl⟩)
  | sio => exact .inr (.inr (.inl ⟨.sio, rfl⟩))
  | tio => exact .inr (.inr (.inl ⟨.tio, rfl⟩))
  | tdv => exact .inr (.inr (.inl ⟨.tdv, rfl⟩))
  | hio => exact .inr (.inr (.inl ⟨.hio, rfl⟩))
  | aio => exact .inr (.inr (.inl ⟨.aio, rfl⟩))
  | rdRegister n => exact .inr (.inr (.inl ⟨.register n, rfl⟩))
  | rdDataSwitches => exact .inr (.inr (.inl ⟨.dataSwitches, rfl⟩))
  | rdSaveStatus => exact .inr (.inr (.inl ⟨.saveStatus, rfl⟩))
  | rdSaveStatusResetInhibits i e => exact .inr (.inr (.inl ⟨.saveStatusResetInhibits i e, rfl⟩))
  | rdSaveStatusSetInhibits i e => exact .inr (.inr (.inl ⟨.saveStatusSetInhibits i e, rfl⟩))
  | rdDirectIO ea => exact .inr (.inr (.inl ⟨.directIO ea, rfl⟩))
  | wdRegister n => exact .inr (.inr (.inr ⟨.register n, rfl⟩))
  | wdTestAndResetBit0 n => exact .inr (.inr (.inr ⟨.testAndResetBit0 n, rfl⟩))
  | wdProtectionRegister r => exact .inr (.inr (.inr ⟨.protectionRegister r, rfl⟩))
  | wdLoadStatus => exact .inr (.inr (.inr ⟨.loadStatus, rfl⟩))
  | wdWait => exact .inr (.inr (.inr ⟨.wait, rfl⟩))
  | wdExit => exact .inr (.inr (.inr ⟨.exit, rfl⟩))
  | wdResetInhibits i e => exact .inr (.inr (.inr ⟨.resetInhibits i e, rfl⟩))
  | wdSetInhibits i e => exact .inr (.inr (.inr ⟨.setInhibits i e, rfl⟩))
  | wdInterruptControl001 g => exact .inr (.inr (.inr ⟨.interruptControl001 g, rfl⟩))
  | wdInterruptControl010 g => exact .inr (.inr (.inr ⟨.interruptControl010 g, rfl⟩))
  | wdInterruptControl011 g => exact .inr (.inr (.inr ⟨.interruptControl011 g, rfl⟩))
  | wdInterruptControl100 g => exact .inr (.inr (.inr ⟨.interruptControl100 g, rfl⟩))
  | wdInterruptControl101 g => exact .inr (.inr (.inr ⟨.interruptControl101 g, rfl⟩))
  | wdInterruptControl110 g => exact .inr (.inr (.inr ⟨.interruptControl110 g, rfl⟩))
  | wdInterruptControl111 g => exact .inr (.inr (.inr ⟨.interruptControl111 g, rfl⟩))
  | wdWatchdogDisable => exact .inr (.inr (.inr ⟨.watchdogDisable, rfl⟩))
  | wdWatchdogEnable => exact .inr (.inr (.inr ⟨.watchdogEnable, rfl⟩))
  | wdWatchdogResetTimer => exact .inr (.inr (.inr ⟨.watchdogResetTimer, rfl⟩))
  | wdDirectIO ea => exact .inr (.inr (.inr ⟨.directIO ea, rfl⟩))
  | shift _ | mul _ | b _ | div _ | lda _ | and _ | add _ | sub _ | ldx _ | cp _ | sta _ | im _ | ldxExitForm _
  | bno _ | bnc _ | baz _ | bix _ | bxno _ | bxnc _ | ben _ | ban _ | copy _ | rand _ | randi _ | randc _ | ror _
  | rcpy _ | rori _ | rcpyi _ | rorc _ | rcpyc _ | reor _ | reori _ | reorc _ | radd _ | raddi _ | raddc _ =>
    exact absurd h nofun

/-! ### The obligations -/

/-- An instruction that is neither STA nor IM leaves memory as it was. -/
theorem exec_mem {i : Instr} {s t : State} (h : exec i s = .next t) (hsta : ∀ m, i ≠ .sta m) (him : ∀ m, i ≠ .im m) :
    t.mem = s.mem := by
  have hexitForm {m : MemRef} (h : exec (.ldxExitForm m) s = .next t) : t.mem = s.mem := by
    obtain hstop | ⟨w0, w1, rfl⟩ := exec_ldxExitForm_cases h
    · exact State.turnedBack_mem (.inl hstop)
    · rw [State.leave_frame]
      rfl
  by_cases hi : isPrivileged i = true
  case pos =>
    obtain ⟨m, rfl⟩ | ⟨m, rfl⟩ | ⟨f, rfl⟩ | ⟨f, rfl⟩ := privileged_cases hi
    · obtain hstop | ⟨hmem, -⟩ := exec_rd_keeps h
      · exact State.turnedBack_mem (.inl hstop)
      · exact hmem
    · exact exec_wd_mem h
    · obtain hstop | ⟨hmem, -⟩ := rdFunction_cases h
      · exact State.turnedBack_mem (.inl hstop)
      · exact hmem
    · obtain hstop | ⟨hmem, -⟩ | ⟨g, act, -, rfl⟩ := wdFunction_cases h
      · exact State.turnedBack_mem (.inl hstop)
      · exact hmem
      · rfl
  case neg =>
    by_cases hform : ∃ m, i = .ldxExitForm m ∨ i = .ldx m ∧ s.exitCondition = true
    case pos =>
      obtain ⟨m, rfl | ⟨rfl, hexit⟩⟩ := hform
      · exact hexitForm h
      · rw [exec_ldx_eq, if_pos hexit] at h
        exact hexitForm h
    case neg =>
      have hexit (m : MemRef) (hm : i = .ldx m) : s.exitCondition = false := by
        by_contra hn
        exact hform ⟨m, .inr ⟨hm, by simpa using hn⟩⟩
      obtain hback | hframe := exec_program_frame h (by simpa using hi) hexit (fun m hm => hform ⟨m, .inl hm⟩) hsta him
      · exact State.turnedBack_mem hback
      · exact hframe.mem

/-- Settles O51: no instruction but STA and IM has a store among its effects. -/
theorem storesChangeOneWord : Obligations.StoresChangeOneWord :=
  ⟨fun _ _ _ hsta him h a => by rw [exec_mem h hsta him], fun _ _ _ h a ha => exec_store_byteAt h a ha⟩

/-- Settles O55: the other rows and the unprivileged instructions leave every level, unless they are turned back. -/
theorem onlyInterruptControlChangesLevels : Obligations.OnlyInterruptControlChangesLevels := by
  intro i s t h hexit hform hwd hcontrol
  have hback (hback : s.turnedBack t) : t.levels = s.levels ∨ t.p = s.regH := .inr (State.turnedBack_p hback)
  by_cases hi : isPrivileged i = true
  case pos =>
    obtain ⟨m, rfl⟩ | ⟨m, rfl⟩ | ⟨f, rfl⟩ | ⟨f, rfl⟩ := privileged_cases hi
    · obtain hstop | ⟨-, hlevels⟩ := exec_rd_keeps h
      · exact hback (.inl hstop)
      · exact .inl hlevels
    · exact absurd rfl (hwd m)
    · obtain hstop | ⟨-, hlevels⟩ := rdFunction_cases h
      · exact hback (.inl hstop)
      · exact .inl hlevels
    · obtain hstop | ⟨-, hlevels⟩ | ⟨g, act, hf, -⟩ := wdFunction_cases h
      · exact hback (.inl hstop)
      · exact .inl hlevels
      · refine absurd (hcontrol g) ?_
        simp only [interruptControls, List.mem_cons, List.not_mem_nil, or_false] at hf
        obtain rfl | rfl | rfl | rfl | rfl | rfl | rfl := hf
        all_goals simp [WdFunction.instr]
  case neg =>
    by_cases hstore : ∃ m, i = .sta m ∨ i = .im m
    case pos =>
      obtain ⟨m, rfl | rfl⟩ := hstore
      · obtain hstop | ⟨ea, -, -, rfl⟩ := exec_sta_cases h
        · exact hback (.inl hstop)
        · exact .inl rfl
      · obtain hstop | ⟨ea, w, -, -, rfl⟩ := exec_im_cases h
        · exact hback (.inl hstop)
        · exact .inl rfl
    case neg =>
      obtain hturned | hframe := exec_program_frame h (by simpa using hi) (fun _ _ => hexit) hform
        (fun m hm => hstore ⟨m, .inl hm⟩) (fun m hm => hstore ⟨m, .inr hm⟩)
      · exact hback hturned
      · exact .inl hframe.levels

/-- A privileged instruction of an unprotected program is stopped (60_exceptions.md R301). -/
theorem exec_privileged_stopped {i : Instr} {s t : State} (h : exec i s = .next t) (hi : isPrivileged i = true)
    (ho : s.operative = true) (hv : s.violationsInhibited = false) (hh : s.protectedAddress s.regH = false) :
    s.stopped t := by
  by_cases haddr : s.addresses i
  case pos =>
    obtain ⟨check, effect, hexec, hcheck⟩ := exec_performs haddr
    rw [hexec, hcheck hi] at h
    obtain hstop | ⟨hadmits, -⟩ := State.perform_cases h
    · exact hstop
    · have hrefused : s.followProgram.refusesCheck .privileged = true := by
        change s.refusesPrivileged = true
        simp [State.refusesPrivileged, ho, hv, hh]
      exact absurd hadmits (by simp [State.admits, hrefused])
  case neg =>
    have hrow (hm : memRefOf i = none) : s.stopped t := by
      refine absurd (fun m hm1 => ?_) haddr
      exact absurd (hm.symm.trans hm1) nofun
    have hnone {m : MemRef} (hi : memRefOf i = some m) : ¬∃ ea, s.effectiveAddress m = .ok ea := by
      rintro hea
      refine haddr fun m1 hm1 => ?_
      rw [hi] at hm1
      exact Option.some.inj hm1 ▸ hea
    obtain ⟨m, rfl⟩ | ⟨m, rfl⟩ | ⟨f, rfl⟩ | ⟨f, rfl⟩ := privileged_cases hi
    · obtain ⟨bad, -, rfl⟩ | ⟨ea, hea, -⟩ := State.withEffectiveAddress_next h
      · exact .inl ⟨bad, rfl⟩
      · exact absurd ⟨ea, hea⟩ (hnone rfl)
    · obtain ⟨bad, -, rfl⟩ | ⟨ea, hea, -⟩ := State.withEffectiveAddress_next h
      · exact .inl ⟨bad, rfl⟩
      · exact absurd ⟨ea, hea⟩ (hnone rfl)
    · exact hrow (by cases f <;> rfl)
    · exact hrow (by cases f <;> rfl)

/-- What an unprotected program cannot change, as one statement about the states before and after. -/
structure State.Confined (s t : State) : Prop where
  words : ∀ addr : Word, s.protectedAddress addr = true → t.readWord addr = s.readWord addr
  pr : t.pr = s.pr
  ch : t.ch = s.ch
  ii : t.ii = s.ii
  ei : t.ei = s.ei
  exitCondition : t.exitCondition = s.exitCondition
  devices : t.devices = s.devices
  dioOut : t.dioOut = s.dioOut
  enabled : ∀ level : Level, (t.level level).enabled = (s.level level).enabled

theorem State.confined_of_turnedBack {s t : State} (h : s.turnedBack t) : s.Confined t := by
  have ht := State.turnedBack_carried h
  have hfield {α : Type} (f : State → α) (hf : f (s.carried t) = f s := by rfl) : f t = f s := (congrArg f ht).trans hf
  exact ⟨fun addr _ => hfield fun u => u.readWord addr, hfield State.pr, hfield State.ch, hfield State.ii,
    hfield State.ei, hfield State.exitCondition, hfield State.devices, hfield State.dioOut, State.turnedBack_enabled h⟩

/-- A store admitted from unprotected memory leaves every protected word (60_exceptions.md R303). -/
theorem State.protected_ne_of_admits {s : State} {ea addr : Word} (ho : s.operative = true)
    (hv : s.violationsInhibited = false) (hh : s.protectedAddress s.regH = false) (ha : s.admits (.store ea) = true)
    (hp : s.protectedAddress addr = true) : addr ≠ ea := by
  rintro rfl
  have hrefused : s.followProgram.refusesCheck (.store addr) = true := by
    change s.refusesStore addr = true
    simp [State.refusesStore, ho, hv, hh, hp]
  exact absurd ha (by simp [State.admits, hrefused])

/-- Settles O48: a privileged instruction is stopped, a store stays in unprotected memory, and no other instruction has
an effect beyond registers and indicators. -/
theorem unprotectedProgramsAreConfined : Obligations.UnprotectedProgramsAreConfined := by
  intro i s t ho hv hh hexit hform h
  have hconfined : s.Confined t := by
    by_cases hi : isPrivileged i = true
    case pos => exact State.confined_of_turnedBack (.inl (exec_privileged_stopped h hi ho hv hh))
    case neg =>
      by_cases hstore : ∃ m, i = .sta m ∨ i = .im m
      case pos =>
        obtain ⟨m, rfl | rfl⟩ := hstore
        · obtain hstop | ⟨ea, -, ha, rfl⟩ := exec_sta_cases h
          · exact State.confined_of_turnedBack (.inl hstop)
          · exact ⟨fun addr hp => State.readWord_writeWord_ne _ _ (State.protected_ne_of_admits ho hv hh ha hp),
              rfl, rfl, rfl, rfl, rfl, rfl, rfl, fun _ => rfl⟩
        · obtain hstop | ⟨ea, w, -, ha, rfl⟩ := exec_im_cases h
          · exact State.confined_of_turnedBack (.inl hstop)
          · exact ⟨fun addr hp => State.readWord_writeWord_ne s.followProgram _ (State.protected_ne_of_admits ho hv hh ha hp),
              rfl, rfl, rfl, rfl, rfl, rfl, rfl, fun _ => rfl⟩
      case neg =>
        obtain hback | hframe := exec_program_frame h (by simpa using hi) (fun _ _ => hexit) hform
          (fun m hm => hstore ⟨m, .inl hm⟩) (fun m hm => hstore ⟨m, .inr hm⟩)
        · exact State.confined_of_turnedBack hback
        · refine ⟨fun addr _ => ?_, hframe.pr, hframe.ch, hframe.ii, hframe.ei, hframe.exitCondition, hframe.devices,
            hframe.dioOut, fun level => ?_⟩
          · rw [State.readWord, State.readWord, State.hasLocation, State.hasLocation, hframe.cfg, hframe.mem]
          · rw [State.level, hframe.levels]
            rfl
  exact ⟨hconfined.words, hconfined.pr, hconfined.ch, hconfined.ii, hconfined.ei, hconfined.exitCondition.trans hexit,
    hconfined.devices, hconfined.dioOut, hconfined.enabled⟩

end Sys2Proof.Machine
end

section
/-! DIV and the exit form of LDX (40_memory_reference.md R124, R128). -/

namespace Sys2Proof.Machine

open Sys2Proof

/-! ### DIV -/

/-- The sign of a doubleword is bit 0 of its left word. -/
theorem bit_zero_eq_append_neg (e a : Word) : e.bit 0 = decide ((e ++ a : BitVec 32).toInt < 0) := by
  have hmsb : (e ++ a : BitVec 32).msb = e.msb := (BitVec.msb_append (x := e) (y := a)).trans (if_neg (by decide))
  rw [← BitVec.msb_eq_toInt, hmsb]
  rfl

/-- A remainder fits in a word, whatever the divisor. -/
theorem toInt_ofInt_of_natAbs_lt {w : Word} {r : Int} (h : r.natAbs < w.toInt.natAbs) : (BitVec.ofInt 16 r).toInt = r := by
  have hle := BitVec.toInt_lt (x := w)
  have hge := BitVec.le_toInt (x := w)
  rw [BitVec.toInt_ofInt]
  exact Int.bmod_eq_of_le (by norm_num at *; omega) (by norm_num at *; omega)

/-- C after a division with a result, by the remainder as a number. -/
theorem divisionCarry_ofInt {w : Word} {r : Int} (rule : RemainderCarry) (dividend : BitVec 32)
    (h : r.natAbs < w.toInt.natAbs) : divisionCarry rule dividend (BitVec.ofInt 16 r) =
      if r = 0 ∧ rule = .dividendSign then decide (dividend.toInt < 0) else decide (r < 0) := by
  have hr := toInt_ofInt_of_natAbs_lt h
  have hzero : BitVec.ofInt 16 r = 0#16 ↔ r = 0 := by
    rw [← BitVec.toInt_inj, hr]
    simp
  have hbit : Word.bit (BitVec.ofInt 16 r) 0 = decide (r < 0) := by
    rw [Bool.eq_iff_iff, Word.bit_zero_iff_neg, hr, decide_eq_true_iff]
  unfold divisionCarry
  cases rule with
  | remainderBit => simp [hbit]
  | dividendSign => simp [hbit, hzero, BitVec.msb_eq_toInt]

theorem divideEffect_overflow {s : State} {w : Word} (h : divideWords (s.e ++ s.a) w = .overflow) :
    divideEffect s w = { s with o := true, c := s.e.bit 0 } := by
  rw [divideEffect, h]

theorem divideEffect_result {s : State} {w q r : Word} (h : divideWords (s.e ++ s.a) w = .result q r) :
    divideEffect s w =
      { s with o := false, a := q, e := r, c := divisionCarry s.cfg.divZeroRemCarry (s.e ++ s.a) r } := by
  rw [divideEffect, h]

/-- DIV with the option, on a word read without a parity error. -/
theorem exec_div_done {s : State} {m : MemRef} {ea w : Word} (he : s.effectiveAddress m = .ok ea)
    (hw : s.checkedRead ea = .ok w) (ha : s.admits .plain = true) (ho : s.cfg.hasMulDiv = true) :
    exec (.div m) s = .next (divideEffect s.followProgram w) :=
  State.withEffectiveAddress_done (check := fun _ => .plain) he ha
    ((if_pos ho).trans (State.followProgram_withOperand hw _))

/-- Settles O12: the quotient and the remainder are those of the model's division, by their uniqueness. -/
theorem divideTruncatesOrOverflows : Obligations.DivideTruncatesOrOverflows := by
  intro s m ea w n q r he hw ha ho hn hdivision
  rw [exec_div_done he hw ha ho]
  have hsign : s.e.bit 0 = decide (n < 0) := by rw [bit_zero_eq_append_neg, ← hn]
  have hover (hd : divideWords (s.e ++ s.a) w = .overflow) :
      divideEffect s.followProgram w = { s with pp := s.protectedAddress s.regH, o := true, c := decide (n < 0) } := by
    rw [← hsign]
    exact divideEffect_overflow (s := s.followProgram) hd
  obtain hzero | ⟨hq, hr, hs⟩ := hdivision
  · rw [if_pos (.inl hzero), hover (divideWords_zero _ w hzero)]
  · have hd : w.toInt ≠ 0 := by
      rintro h
      rw [h] at hr
      exact absurd hr (by simp)
    have hwords := divideWords_of_eq (s.e ++ s.a) w n q r hn hq hr hs
    by_cases hbig : 0x8000 ≤ q.natAbs
    case pos =>
      rw [if_pos (.inr hbig), hover (hwords.trans (if_pos hbig))]
    case neg =>
      rw [if_neg (not_or_intro hd hbig), hn, ← divisionCarry_ofInt _ _ hr]
      exact congrArg Host.Outcome.next (divideEffect_result (s := s.followProgram) (hwords.trans (if_neg hbig)))

/-! ### The exit form of LDX -/

/-- The status and P after an exit. -/
theorem State.leave_eq (s : State) (w0 w1 : Word) :
    s.leave w0 w1 = { s.loadStatus w0 with p := w1, exitCondition := false, levels := (s.leave w0 w1).levels } := by
  unfold State.leave
  dsimp only
  split <;> rfl

/-- The levels after an exit: the highest active one is armed. -/
theorem State.leave_level (s : State) (w0 w1 : Word) (level : Level) : (s.leave w0 w1).level level =
    if s.highestActive = some level then { s.level level with state := .armed } else s.level level := by
  unfold State.leave
  dsimp only
  split
  case h_1 active hactive =>
    rw [State.setLevelState_level, hactive]
    simp only [Option.some.injEq, eq_comm (a := active)]
    rfl
  case h_2 hnone =>
    rw [hnone, if_neg nofun]
    rfl

/-- The exit form on a doubleword read without a parity error. -/
theorem exec_ldxExitForm_done {s : State} {m : MemRef} {ea w0 w1 : Word} (he : s.effectiveAddress m = .ok ea)
    (hw0 : s.checkedRead ea = .ok w0) (hw1 : s.checkedRead (ea + 1) = .ok w1) (ha : s.admits .plain = true) :
    exec (.ldxExitForm m) s = .next (s.followProgram.leave w0 w1) :=
  State.withEffectiveAddress_done (check := fun _ => .plain) he ha
    ((State.followProgram_withOperand hw0 _).trans (State.followProgram_withOperand hw1 _))

/-- Settles O8: the exit form of either instruction is the return of `State.leave` on the effective doubleword. -/
theorem exitFormRestoresTheEnvironment : Obligations.ExitFormRestoresTheEnvironment := by
  intro s m i ea w0 w1 hi he hw0 hw1 ha
  have hexec : exec i s = .next (s.followProgram.leave w0 w1) := by
    obtain ⟨rfl, hexit⟩ | rfl := hi
    · rw [exec_ldx_eq, if_pos hexit]
      exact exec_ldxExitForm_done he hw0 hw1 ha
    · exact exec_ldxExitForm_done he hw0 hw1 ha
  refine ⟨_, hexec, ?_, s.followProgram.leave_level w0 w1⟩
  rw [← State.checkedRead_ok hw0, ← State.checkedRead_ok hw1, State.leave_eq]
  rfl

end Sys2Proof.Machine
end

section
/-! The rows of RD and WD, one by one (43_direct_control.md R192 to R222). -/

namespace Sys2Proof.Machine

open Sys2Proof

/-- Settles O4: the decoder evaluates on each word. -/
theorem exampleWordsDecode : Obligations.ExampleWordsDecode :=
  ⟨rfl, rfl, rfl, rfl, rfl, rfl⟩

/-! ### The register block -/

theorem gprNumber_toNat (r : Gpr) : (0#3 ++ r.bits : BitVec 6).toNat < 8 := by
  cases r <;> decide

theorem gprNumber_bits (r : Gpr) : Gpr.ofBits ((0#3 ++ r.bits : BitVec 6).extractLsb' 0 3) = r := by
  cases r <;> rfl

theorem State.register_gpr (s : State) (r : Gpr) : s.register (0#3 ++ r.bits) = some (s.gpr r) := by
  rw [State.register, if_pos (gprNumber_toNat r), gprNumber_bits]

theorem State.setRegister_gprNumber (s : State) (r : Gpr) (v : Word) :
    s.setRegister (0#3 ++ r.bits) v = some (s.setGpr r v) := by
  rw [State.setRegister, if_pos (gprNumber_toNat r), gprNumber_bits]

theorem channelNumber_toNat {cfg : Config} {k : Nat} (h : k < 2 * ioChannels cfg) :
    (BitVec.ofNat 6 (8 + k)).toNat = 8 + k := by
  have hle := ioChannels_le cfg
  rw [BitVec.toNat_ofNat]
  omega

theorem State.register_channel {s : State} {k : Nat} (h : k < 2 * ioChannels s.cfg) :
    s.register (BitVec.ofNat 6 (8 + k)) = some (s.channel k) := by
  rw [State.register, channelNumber_toNat h, if_neg (by omega), if_pos (by omega), Nat.add_sub_cancel_left]

theorem State.setRegister_channelNumber {s : State} {k : Nat} (h : k < 2 * ioChannels s.cfg) (v : Word) :
    s.setRegister (BitVec.ofNat 6 (8 + k)) v = some (s.setChannel k v) := by
  rw [State.setRegister, channelNumber_toNat h, if_neg (by omega), if_pos (by omega), Nat.add_sub_cancel_left]

theorem rdRegisterEffect_eq {s : State} {n : BitVec 6} {v : Word} (h : s.register n = some v) :
    rdRegisterEffect n s = .done { s with a := v } := by
  simp only [rdRegisterEffect, h]

theorem wdRegisterEffect_eq {s t : State} {n : BitVec 6} (h : s.setRegister n s.a = some t) :
    wdRegisterEffect n s = .done t := by
  simp only [wdRegisterEffect, h]

theorem testAndResetEffect_eq {s t : State} {n : BitVec 6} {v : Word} (h : s.register n = some v)
    (hset : s.setRegister n (v &&& 0x7FFF#16) = some t) : testAndResetEffect n s = .done { t with o := v.msb } := by
  simp only [testAndResetEffect, h, hset]
  rfl

/-- An admitted instruction whose effect is always done completes with it. -/
theorem State.perform_effect {s : State} {check : Check} (effect : State → State) (ha : s.admits check = true) :
    s.perform check (fun s1 => .done (effect s1)) = .next (effect s.followProgram) :=
  State.perform_done ha rfl

/-- Settles O21. -/
theorem readDirectReadsRegisters : Obligations.ReadDirectReadsRegisters := by
  intro s r k ha hk
  refine ⟨State.perform_done ha ?general, State.perform_done ha ?channel,
    State.perform_effect (fun s1 => { s1 with a := s1.panel.data }) ha⟩
  case general =>
    rw [rdRegisterEffect_eq (State.register_gpr _ r), State.followProgram_gpr]
    rfl
  case channel => exact rdRegisterEffect_eq (State.register_channel hk)

/-- Settles O22: each row by the register its number names. -/
theorem writeDirectLoadsRegisters : Obligations.WriteDirectLoadsRegisters := by
  refine ⟨fun s s1 r k ha hk hs1 => ?rows, fun s k j v hk => ⟨s.setChannel_channel k j v hk, s.setChannel_frame k v⟩⟩
  case rows =>
    have hs1 : s1 = s.followProgram := hs1
    subst hs1
    refine ⟨State.perform_done ha ?general, State.perform_done ha ?channel, State.perform_done ha ?generalBit,
      State.perform_done ha ?channelBit⟩
    case general => exact wdRegisterEffect_eq (State.setRegister_gprNumber _ r _)
    case channel => exact wdRegisterEffect_eq (State.setRegister_channelNumber (s := s.followProgram) hk _)
    case generalBit =>
      rw [testAndResetEffect_eq (State.register_gpr _ r) (State.setRegister_gprNumber _ r _), State.followProgram_gpr]
    case channelBit =>
      exact testAndResetEffect_eq (State.register_channel hk) (State.setRegister_channelNumber (s := s.followProgram) hk _)

/-! ### Status, inhibits, protection registers -/

/-- Settles O24. -/
theorem writeDirectSetsStatus : Obligations.WriteDirectSetsStatus := by
  intro s i e ha
  refine ⟨State.perform_effect (fun s1 => s1.loadStatus s1.a) ha, State.perform_effect (fun s1 => { s1 with wff := true }) ha,
    State.perform_effect (fun s1 => { s1 with exitCondition := true }) ha, ?reset, ?set⟩
  case reset =>
    exact (State.perform_effect (fun s1 => s1.resetInhibits i e) ha).trans
      (congrArg Host.Outcome.next (State.resetInhibits_eq _ i e))
  case set =>
    exact (State.perform_effect (fun s1 => s1.setInhibits i e) ha).trans
      (congrArg Host.Outcome.next (State.setInhibits_eq _ i e))

/-- The first and the second hexadecimal digit of an address. -/
theorem Word.field_digits (addr : Word) : (Word.field addr 0 3).toNat = addr.toNat / 0x1000 ∧
    (Word.field addr 4 7).toNat = addr.toNat / 0x100 % 16 := by
  have hlt := addr.isLt
  have hfirst : addr.toNat / 0x1000 < 2 ^ 4 := by omega
  simp only [Word.field, BitVec.extractLsb'_toNat, Nat.shiftRight_eq_div_pow]
  exact ⟨Nat.mod_eq_of_lt hfirst, trivial⟩

/-- Settles O25: the registers after the load, and the bit that an address selects in them. -/
theorem protectionRegistersLoad : Obligations.ProtectionRegistersLoad := by
  intro s r ha
  have hload (ho : s.cfg.hasProtection = true) (k : Fin 16) :
      (protectionRegisterEffect r s.followProgram).pr[k] = if k.val = r.toNat then s.a else s.pr[k] := by
    rw [protectionRegisterEffect, if_pos (show s.followProgram.cfg.hasProtection = true from ho)]
    refine (Vector.getElem_set r.isLt k.isLt).trans ?_
    simp only [eq_comm (a := r.toNat)]
    rfl
  refine ⟨_, State.perform_effect (protectionRegisterEffect r) ha, ?frame, fun hn => ?none, hload, fun ho addr => ?bits⟩
  case frame =>
    rw [protectionRegisterEffect_frame]
    rfl
  case none =>
    rw [protectionRegisterEffect, if_neg (by simp [hn])]
    rfl
  case bits =>
    obtain ⟨hfirst, hsecond⟩ := Word.field_digits addr
    have hregister := hload (State.hasProtection_of_operative ho) ⟨(Word.field addr 0 3).toNat, (Word.field addr 0 3).isLt⟩
    have hoperative : (protectionRegisterEffect r s.followProgram).operative = s.operative := by
      rw [protectionRegisterEffect_frame]
      rfl
    rw [State.protectedAddress, State.protectedAddress, hoperative, ho, Bool.true_and, Bool.true_and, ← hfirst, ← hsecond]
    refine (congrArg (fun w => Word.bit w (Word.field addr 4 7).toNat) hregister).trans ?_
    exact apply_ite (fun w => Word.bit w (Word.field addr 4 7).toNat) _ _ _

/-! ### Interrupt control -/

theorem levelLocation_toNat (level : Level) : (levelLocation level).toNat = 0xFC + level.val := by
  have hlt := level.isLt
  rw [levelLocation, BitVec.toNat_ofNat]
  omega

/-- The location of a level tells its group and its accumulator bit, Table 2's last columns. -/
theorem levelSelector_eq (level : Level) : levelSelector level =
    if 0xFC + level.val < 0x100 then some (0, 0xFC + level.val - 0xFC)
    else if 0xFC + level.val < 0x106 then none
    else if 0xFC + level.val < 0x110 then some (0, 0xFC + level.val - 0x100)
    else some (BitVec.ofNat 4 ((0xFC + level.val) / 0x10 - 0xC), (0xFC + level.val) % 0x10) := by
  have hlt := level.isLt
  by_cases hcounter : level.val < 4
  · rw [levelSelector, if_pos (by simpa [isCounter] using hcounter), if_pos (by omega), Nat.add_sub_cancel_left]
  have hc : ¬isCounter level = true := by simpa [isCounter] using hcounter
  by_cases hoverride : level.val < 10
  · have ho : isOverride level = true := by simp [isOverride, hoverride]; omega
    rw [levelSelector, if_neg hc, if_pos ho, if_neg (by omega), if_pos (by omega)]
  have ho : ¬isOverride level = true := by simp [isOverride]; omega
  by_cases hio : level.val < 20
  · have hg : isIoGroup level = true := by simp [isIoGroup, hio]; omega
    rw [levelSelector, if_neg hc, if_neg ho, if_pos hg, if_neg (by omega), if_neg (by omega), if_pos (by omega),
      show 0xFC + level.val - 0x100 = level.val - 4 by omega]
  · have hg : ¬isIoGroup level = true := by simp [isIoGroup]; omega
    rw [levelSelector, if_neg hc, if_neg ho, if_neg hg, if_neg (by omega), if_neg (by omega), if_neg (by omega),
      show (0xFC + level.val) / 0x10 - 0xC = 5 + (level.val - 20) / 16 by omega,
      show (0xFC + level.val) % 0x10 = (level.val - 20) % 16 by omega]

/-- Interrupt control completes with its action on the levels of its group. -/
theorem exec_interruptControl_done {s : State} (g : BitVec 4) {act cellAct : Bool → LevelCell → LevelCell}
    (ha : s.admits .privileged = true) (hact : ∀ sel cell, cellAct sel cell = act sel cell) :
    ∃ t, s.perform .privileged (fun s1 => .done (s1.controlLevels g cellAct)) = .next t ∧
      t = { s with pp := s.protectedAddress s.regH, levels := t.levels } ∧
      ∀ level : Level, t.level level =
        match levelSelector level with
        | some (group, bit) =>
          if group = g ∧ installed s.cfg level = true then act (s.a.bit bit) (s.level level) else s.level level
        | none => s.level level := by
  refine ⟨_, State.perform_effect (fun s1 => s1.controlLevels g cellAct) ha, rfl, fun level => ?_⟩
  rw [State.controlLevels_level, funext₂ hact]
  rfl

/-- Settles O26: each code by its action, and the selectors by the locations. -/
theorem interruptControlActsOnSelectedLevels : Obligations.InterruptControlActsOnSelectedLevels := by
  refine ⟨fun s g i act ha hi => ?codes, fun level loc hloc => ?selectors, fun level k hlocation => ?locations⟩
  case codes =>
    obtain ⟨rfl, hact⟩ | ⟨rfl, hact⟩ | ⟨rfl, hact⟩ | ⟨rfl, hact⟩ | ⟨rfl, hact⟩ | ⟨rfl, hact⟩ | ⟨rfl, hact⟩ := hi
    · exact exec_interruptControl_done (act := act) g ha (cellAct := disarmCell) fun sel _ => by cases sel <;> rw [hact] <;> rfl
    · exact exec_interruptControl_done (act := act) g ha (cellAct := armEnableCell) fun sel _ => hact ▸ rfl
    · exact exec_interruptControl_done (act := act) g ha (cellAct := armDisableCell) fun sel _ => hact ▸ rfl
    · exact exec_interruptControl_done (act := act) g ha (cellAct := enableCell) fun sel cell => by
        cases sel <;> simp [hact, enableCell]
    · exact exec_interruptControl_done (act := act) g ha (cellAct := disableCell) fun sel cell => by
        cases sel <;> simp [hact, disableCell]
    · exact exec_interruptControl_done (act := act) g ha (cellAct := enableOnlyCell) fun _ _ => hact ▸ rfl
    · refine exec_interruptControl_done (act := act) g ha (cellAct := triggerCell) fun sel cell => ?_
      rw [hact, triggerCell]
      dsimp only
      split_ifs <;> rfl
  case selectors =>
    have hlt := level.isLt
    rw [levelLocation_toNat] at hloc
    subst hloc
    exact ⟨by omega, by omega, levelSelector_eq level⟩
  case locations =>
    have hnat := congrArg BitVec.toNat hlocation
    rw [levelLocation_toNat, levelLocation_toNat] at hnat
    exact Fin.ext (by omega)

end Sys2Proof.Machine
end

section
/-! RD and WD by their effective address, the connector, and what the tables leave undefined (43_direct_control.md R190 to
R222; 93_implementation_defined.md U1 to U7). -/

namespace Sys2Proof.Machine

open Sys2Proof

/-! ### The Watchdog Timer and the connector -/

/-- Settles O27: the timer acknowledges, with free status. -/
theorem watchdogCommandsComplete : Obligations.WatchdogCommandsComplete := by
  rintro s s1 ha hw rfl
  exact ⟨State.perform_done ha (if_pos hw), State.perform_done ha (if_pos hw), State.perform_done ha (if_pos hw)⟩

theorem State.presentCommand_reply {s : State} {r : DioReply} {rest : List DioReply} (h : s.dioReplies = r :: rest)
    (cmd : DioCommand) :
    s.presentCommand cmd = { s with dioOut := some cmd, dioReplies := rest }.acceptReply cmd r := by
  simp only [State.presentCommand, h]

theorem State.presentCommand_held {s : State} (h : s.dioReplies = []) (cmd : DioCommand) :
    s.presentCommand cmd = { s with dioOut := some cmd, dio := some cmd } := by
  simp only [State.presentCommand, h]

/-- RD and WD on the connector, with the feature. -/
theorem exec_directIO_done {s : State} (ea : Word) (ha : s.admits .privileged = true) (hdio : s.cfg.hasDio = true) :
    exec (.rdDirectIO ea) s = .next (s.followProgram.presentCommand (.read ea)) ∧
    exec (.wdDirectIO ea) s = .next (s.followProgram.presentCommand (.write ea s.a)) :=
  ⟨State.perform_done ha (if_pos hdio), State.perform_done ha (if_pos hdio)⟩

/-- Settles O28: the command takes the waiting acknowledgment, or is held. -/
theorem directIoTransfers : Obligations.DirectIoTransfers := by
  rintro s ea rd wd ha hdio rfl rfl
  obtain ⟨hrd, hwd⟩ := exec_directIO_done ea ha hdio
  rw [hrd, hwd]
  refine ⟨fun r rest h => ?_, fun h => ?_⟩
  · rw [State.presentCommand_reply (s := s.followProgram) h, State.presentCommand_reply (s := s.followProgram) h]
    exact ⟨rfl, rfl⟩
  · rw [State.presentCommand_held (s := s.followProgram) h, State.presentCommand_held (s := s.followProgram) h]
    exact ⟨rfl, rfl⟩

/-! ### The effective address selects the row -/

theorem exec_rd_some {s : State} {m : MemRef} {ea : Word} {f : RdFunction} (he : s.effectiveAddress m = .ok ea)
    (hf : decodeRd ea = some f) : exec (.rd m) s = exec f.instr s := by
  have hrow : exec (.rd m) s = execRdFunction f s := by
    refine (State.withEffectiveAddress_ok _ he).trans ?_
    simp only [hf]
  exact hrow.trans (by cases f <;> rfl)

theorem exec_wd_some {s : State} {m : MemRef} {ea : Word} {f : WdFunction} (he : s.effectiveAddress m = .ok ea)
    (hf : decodeWd ea = some f) : exec (.wd m) s = exec f.instr s := by
  have hrow : exec (.wd m) s = execWdFunction f s := by
    refine (State.withEffectiveAddress_ok _ he).trans ?_
    simp only [hf]
  exact hrow.trans (by cases f <;> rfl)

theorem exec_rd_none {s : State} {m : MemRef} {ea : Word} (he : s.effectiveAddress m = .ok ea)
    (ha : s.admits .privileged = true) (hf : decodeRd ea = none) : exec (.rd m) s = .refused (rdUndefined ea) := by
  refine (State.withEffectiveAddress_ok _ he).trans ?_
  simp only [hf]
  exact State.perform_undefined ha rfl

theorem exec_wd_none {s : State} {m : MemRef} {ea : Word} (he : s.effectiveAddress m = .ok ea)
    (ha : s.admits .privileged = true) (hf : decodeWd ea = none) : exec (.wd m) s = .refused (wdUndefined ea) := by
  refine (State.withEffectiveAddress_ok _ he).trans ?_
  simp only [hf]
  exact State.perform_undefined ha rfl

/-- The effective address of a general register is its number. -/
theorem decode_gpr (r : Gpr) : decodeRd (0#13 ++ r.bits) = some (.register (0#3 ++ r.bits)) ∧
    decodeWd (0#13 ++ r.bits) = some (.register (0#3 ++ r.bits)) := by
  cases r <;> exact ⟨rfl, rfl⟩

/-- Settles O30. -/
theorem directControlFollowsTheEffectiveAddress : Obligations.DirectControlFollowsTheEffectiveAddress := by
  refine ⟨fun s m ea he => ⟨fun f => exec_rd_some he, fun f => exec_wd_some he⟩, fun s m r he ha => ?_⟩
  obtain ⟨hrd, hwd⟩ := decode_gpr r
  rw [exec_rd_some he hrd, exec_wd_some he hwd]
  refine ⟨State.perform_done ha ?_, State.perform_done ha ?_⟩
  · rw [rdRegisterEffect_eq (State.register_gpr _ r), State.followProgram_gpr]
    rfl
  · exact wdRegisterEffect_eq (State.setRegister_gprNumber _ r _)

/-! ### Effective addresses without a function -/

/-- RD has no function between the internal ones and the external modes. -/
theorem decodeRd_eq_none {ea : Word} (hlow : 0x100 ≤ ea.toNat) (hhigh : ea.toNat < 0x2000) : decodeRd ea = none := by
  cases hf : decodeRd ea with
  | none => rfl
  | some f =>
    obtain ⟨rfl, hwf⟩ := ea_of_decodeRd hf
    obtain ⟨ea, rfl⟩ | hlt := f.ea_lt
    · have hexternal : 0x2000 ≤ ea.toNat := of_decide_eq_true hwf
      exact absurd hhigh (Nat.not_lt.2 hexternal)
    · omega

/-- Where the functions of WD stand: internal control, the Watchdog Timer, interrupt control, the external modes. -/
theorem WdFunction_ea_cases (f : WdFunction) (hwf : f.instr.wellFormed = true) :
    f.ea.toNat < 0x100 ∨ f.ea ∈ [0x0100#16, 0x0200#16, 0x0300#16] ∨
    (0x1100 ≤ f.ea.toNat ∧ f.ea.toNat < 0x1800 ∧ f.ea.toNat % 0x100 < 0x10) ∨ 0x2000 ≤ f.ea.toNat := by
  cases f with
  | directIO ea => exact .inr (.inr (.inr (of_decide_eq_true hwf)))
  | watchdogDisable | watchdogEnable | watchdogResetTimer => exact .inr (.inl (by decide))
  | interruptControl001 g | interruptControl010 g | interruptControl011 g | interruptControl100 g
  | interruptControl101 g | interruptControl110 g | interruptControl111 g =>
    refine .inr (.inr (.inl ?_))
    revert g
    decide
  | register n | testAndResetBit0 n =>
    refine .inl ?_
    revert n
    decide
  | protectionRegister r =>
    refine .inl ?_
    revert r
    decide
  | loadStatus | wait | exit => exact .inl (by decide)
  | resetInhibits i e | setInhibits i e => exact .inl (by cases i <;> cases e <;> decide)

/-- An effective address outside those places selects no function of WD. -/
theorem decodeWd_eq_none {ea : Word} (hlow : 0x100 ≤ ea.toNat) (hhigh : ea.toNat < 0x2000)
    (hwatchdog : ea ∉ [0x0100#16, 0x0200#16, 0x0300#16])
    (hcontrol : ¬(0x1100 ≤ ea.toNat ∧ ea.toNat < 0x1800 ∧ ea.toNat % 0x100 < 0x10)) : decodeWd ea = none := by
  cases hf : decodeWd ea with
  | none => rfl
  | some f =>
    obtain ⟨rfl, hwf⟩ := ea_of_decodeWd hf
    obtain h | h | h | h := WdFunction_ea_cases f hwf
    · omega
    · exact absurd h hwatchdog
    · exact absurd h hcontrol
    · omega

theorem decodeRd_byte_eq_none {ea : Word} (hlt : ea.toNat < 0x100) (h : isRdFunctionByte ea.lo = false) :
    decodeRd ea = none := by
  rw [isRdFunctionByte_eq, setWidth_lo hlt] at h
  exact Option.not_isSome_iff_eq_none.1 (by simp [h])

theorem decodeWd_byte_eq_none {ea : Word} (hlt : ea.toNat < 0x100) (h : isWdFunctionByte ea.lo = false) :
    decodeWd ea = none := by
  rw [isWdFunctionByte_eq, setWidth_lo hlt] at h
  exact Option.not_isSome_iff_eq_none.1 (by simp [h])

/-! ### Why an effective address selects none -/

/-- The fields that the refusals look at, as digits and a bit of the address. -/
theorem Word.undefined_fields (ea : Word) :
    (Word.field ea 0 3 = 0x1#4 ↔ ea.toNat / 0x1000 = 1) ∧ (Word.field ea 4 7 ≠ 0x0#4 ↔ ea.toNat / 0x100 % 16 ≠ 0) ∧
    (Word.field ea 8 11 ≠ 0x0#4 ↔ ea.toNat / 0x10 % 16 ≠ 0) ∧ (Word.bit ea 4 = true ↔ ea.toNat / 0x800 % 2 = 1) := by
  obtain ⟨hfirst, hsecond⟩ := Word.field_digits ea
  have hthird : (Word.field ea 8 11).toNat = ea.toNat / 0x10 % 16 := by
    simp only [Word.field, BitVec.extractLsb'_toNat, Nat.shiftRight_eq_div_pow]
  have hbit : Word.bit ea 4 = decide (ea.toNat / 0x800 % 2 = 1) := by
    have hlsb : Word.bit ea 4 = ea.toNat.testBit 11 := by simp [Word.bit, BitVec.getMsbD_eq_getLsbD, BitVec.getLsbD]
    rw [hlsb, Nat.testBit_eq_decide_div_mod_eq]
  rw [Ne, Ne, Ne, ← BitVec.toNat_inj, ← BitVec.toNat_inj, ← BitVec.toNat_inj, hfirst, hsecond, hthird, hbit]
  exact ⟨Iff.rfl, Iff.rfl, Iff.rfl, decide_eq_true_iff⟩

theorem rdUndefined_eq (ea : Word) : rdUndefined ea =
    if ea.toNat / 0x1000 = 1 then .interruptModeRead
    else if ea.toNat / 0x100 % 16 ≠ 0 then .mustBeZero
    else .undefinedFunction := by
  obtain ⟨hfirst, hsecond, -, -⟩ := Word.undefined_fields ea
  simp only [rdUndefined, hfirst, hsecond]

theorem wdUndefined_eq (ea : Word) : wdUndefined ea =
    if ea.toNat / 0x1000 = 1 then
      (if ea.toNat / 0x800 % 2 = 1 ∨ ea.toNat / 0x10 % 16 ≠ 0 then .mustBeZero else .undefinedInterruptCode)
    else if ea.toNat / 0x100 % 16 ≠ 0 then .mustBeZero
    else .undefinedFunction := by
  obtain ⟨hfirst, hsecond, hthird, hbit⟩ := Word.undefined_fields ea
  simp only [wdUndefined, hfirst, hsecond, Bool.or_eq_true, hbit, decide_eq_true_iff, hthird]

/-! ### Registers and channels that are not installed -/

theorem State.register_uninstalled {s : State} {n : BitVec 6} (h : 8 + 2 * ioChannels s.cfg ≤ n.toNat) :
    s.register n = none := by
  rw [State.register, if_neg (by omega), if_neg (by omega)]

theorem State.setRegister_uninstalled {s : State} {n : BitVec 6} (h : 8 + 2 * ioChannels s.cfg ≤ n.toNat) (v : Word) :
    s.setRegister n v = none := by
  rw [State.setRegister, if_neg (by omega), if_neg (by omega)]

/-- The load's preparation leaves what selects the device. -/
theorem State.prepareLoad_frame (s : State) : s.prepareLoad =
    { s with ch := s.prepareLoad.ch, wff := true, p := 0, regS := 0, loadCondition := false } := by
  unfold State.prepareLoad State.setChannelEven State.setChannelOdd
  dsimp only
  split
  · rw [State.setChannel_frame (s.setChannel _ _), State.setChannel_frame s]
  · rfl

/-- An I/O instruction for a device whose channel is not installed is not described (93_implementation_defined.md U7). -/
theorem State.withDevice_uninstalled {s : State} {d : Device} (hd : s.device s.deviceNumber = some d)
    (h : ioChannels s.cfg ≤ channelOf d.number) (k : Device → State) :
    s.withDevice k = .undefined .uninstalledRegister := by
  simp only [State.withDevice, hd, if_neg (Nat.not_lt.2 h)]

/-- Settles O31: each case by the row it fails to select, or by the part that is not installed. -/
theorem undefinedFunctionsRefused : Obligations.UndefinedFunctionsRefused := by
  refine ⟨fun s m ea he ha => ?addresses, fun s n ha hn => ?registers, fun s ea ha hdio => ?connector,
    fun s ha hw => ?timer, fun s n d ha hn hd hc i hi => ?devices⟩
  case addresses =>
    refine ⟨fun ⟨h0, h1⟩ => ?_, fun ⟨h0, h1⟩ => ?_, fun ⟨h, hbyte⟩ => ?_, fun ⟨h, hbyte⟩ => ?_,
      fun ⟨h0, h1, hd, hen, hr⟩ => ?_, fun ⟨h0, h1⟩ => ?_, fun ⟨h0, h1, h⟩ => ?_⟩
    · rw [exec_rd_none he ha (decodeRd_eq_none (by omega) h1), rdUndefined_eq, if_pos (by omega)]
    · rw [exec_rd_none he ha (decodeRd_eq_none h0 (by omega)), rdUndefined_eq, if_neg (by omega), if_pos (by omega)]
    · rw [exec_rd_none he ha (decodeRd_byte_eq_none h hbyte), rdUndefined_eq, if_neg (by omega), if_neg (by omega)]
    · rw [exec_wd_none he ha (decodeWd_byte_eq_none h hbyte), wdUndefined_eq, if_neg (by omega), if_neg (by omega)]
    · rw [exec_wd_none he ha (decodeWd_eq_none h0 (by omega) (by simp [hd, hen, hr]) (by omega)), wdUndefined_eq,
        if_neg (by omega), if_pos (by omega)]
    · have hwatchdog : ea ∉ [0x0100#16, 0x0200#16, 0x0300#16] := by
        simp only [List.mem_cons, List.not_mem_nil, or_false]
        rintro (rfl | rfl | rfl) <;> exact absurd h0 (by decide)
      rw [exec_wd_none he ha (decodeWd_eq_none (by omega) (by omega) hwatchdog (by omega)), wdUndefined_eq,
        if_pos (by omega), if_neg (by omega)]
    · have hwatchdog : ea ∉ [0x0100#16, 0x0200#16, 0x0300#16] := by
        simp only [List.mem_cons, List.not_mem_nil, or_false]
        rintro (rfl | rfl | rfl) <;> exact absurd h0 (by decide)
      rw [exec_wd_none he ha (decodeWd_eq_none (by omega) h1 hwatchdog (by omega)), wdUndefined_eq,
        if_pos (by omega), if_pos (by omega)]
  case registers =>
    have hread : s.followProgram.register n = none := State.register_uninstalled hn
    have hload (v : Word) : s.followProgram.setRegister n v = none :=
      State.setRegister_uninstalled (s := s.followProgram) hn v
    refine ⟨State.perform_undefined ha ?_, State.perform_undefined ha ?_, State.perform_undefined ha ?_⟩
    · simp only [rdRegisterEffect, hread]
    · simp only [wdRegisterEffect, hload]
    · simp only [testAndResetEffect, hread]
  case connector =>
    have hno : ¬s.followProgram.cfg.hasDio = true := by simp [hdio]
    have hrd : exec (.rdDirectIO ea) s = .refused .noDirectIo := State.perform_undefined ha (if_neg hno)
    have hwd : exec (.wdDirectIO ea) s = .refused .noDirectIo := State.perform_undefined ha (if_neg hno)
    exact ⟨hrd, hwd, fun m he h => ⟨(exec_rd_some he (decodeRd_external h)).trans hrd,
      (exec_wd_some he (decodeWd_external h)).trans hwd⟩⟩
  case timer =>
    have hno : ¬s.followProgram.cfg.hasWatchdog = true := by simp [hw]
    exact ⟨State.perform_undefined ha (if_neg hno), State.perform_undefined ha (if_neg hno),
      State.perform_undefined ha (if_neg hno)⟩
  case devices =>
    subst hn
    have hnumber : d.number = s.deviceNumber := State.device_number hd
    have hchannel : ioChannels s.cfg ≤ channelOf d.number := hnumber ▸ hc
    have hnone (k : Device → State) : s.followProgram.withDevice k = .undefined .uninstalledRegister :=
      State.withDevice_uninstalled (s := s.followProgram) hd hchannel k
    simp only [List.mem_cons, List.not_mem_nil, or_false] at hi
    obtain rfl | rfl | rfl | rfl := hi
    · refine State.perform_undefined ha ?_
      unfold sioEffect
      split
      · refine State.withDevice_uninstalled (d := d) ?_ ?_ _
        · rw [State.prepareLoad_frame]
          exact hd
        · rw [State.prepareLoad_frame]
          exact hchannel
      · exact hnone _
    · exact State.perform_undefined ha (hnone _)
    · exact State.perform_undefined ha (hnone _)
    · exact State.perform_undefined ha (hnone _)

end Sys2Proof.Machine
end

section
/-! The I/O instructions: SIO, TIO, TDV, HIO and AIO (44_io.md R241 to R247; 70_reset_and_hazards.md R344). -/

namespace Sys2Proof.Machine

open Sys2Proof

theorem State.withDevice_none {s : State} (h : s.device s.deviceNumber = none) (k : Device → State) :
    s.withDevice k = .done s.notRecognized := by
  simp only [State.withDevice, h]

theorem State.withDevice_some {s : State} {d : Device} (hd : s.device s.deviceNumber = some d)
    (h : channelOf s.deviceNumber < ioChannels s.cfg) (k : Device → State) : s.withDevice k = .done (k d) := by
  simp only [State.withDevice, hd, State.device_number hd, if_pos h]

/-- A device accepts SIO when it is ready, its controller is ready, and nothing is pending. -/
theorem Device.accepts_iff (d : Device) :
    Device.accepts d = true ↔ d.condition = .ready ∧ d.controller = .ready ∧ d.pending = false := by
  simp [Device.accepts, and_assoc]

theorem State.startIo_accepted (s : State) (phase : Phase) {d : Device} (h : Device.accepts d = true) :
    s.startIo phase d = (s.startDevice d.number phase).respond (Device.statusByte d) false false := by
  rw [State.startIo, if_pos h]

theorem State.startIo_refused (s : State) (phase : Phase) {d : Device} (h : ¬Device.accepts d = true) :
    s.startIo phase d = s.respond (Device.statusByte d) false true := by
  rw [State.startIo, if_neg h]

/-- A device that accepts is started, with its controller; no device of another controller changes. -/
theorem State.startIo_device {s : State} {phase : Phase} {n : Byte} {d : Device} (hd : s.device n = some d)
    (ha : Device.accepts d = true) :
    (s.startIo phase d).device n = some { d with phase := phase, condition := .busy, controller := .busy } ∧
    ∀ k : Byte, sameController k n = false → (s.startIo phase d).device k = s.device k := by
  obtain rfl := State.device_number hd
  rw [State.startIo_accepted s phase ha]
  exact ⟨s.startDevice_self d.number phase d hd, fun k hk => s.startDevice_other d.number k phase hk⟩

/-! ### SIO outside the load condition, TIO and TDV -/

/-- Settles O32: the device that recognises the number accepts or not. -/
theorem startIoStartsAReadyDevice : Obligations.StartIoStartsAReadyDevice := by
  intro s n ha hload hn
  subst hn
  have heffect : sioEffect s.followProgram = s.followProgram.withDevice fun d => s.followProgram.startIo .wantsOrder d :=
    if_neg (by simp [hload])
  refine ⟨fun hnone => ?none, fun d hd hc => ⟨fun hno => ?refused, fun h0 h1 h2 => ?accepted⟩⟩
  case none => exact State.perform_done ha (heffect.trans (State.withDevice_none (s := s.followProgram) hnone _))
  case refused =>
    refine State.perform_done ha ((heffect.trans (State.withDevice_some (s := s.followProgram) hd hc _)).trans ?_)
    rw [State.startIo_refused _ _ fun h => hno ((Device.accepts_iff d).1 h)]
    rfl
  case accepted =>
    have haccepts := (Device.accepts_iff d).2 ⟨h0, h1, h2⟩
    obtain ⟨hself, hother⟩ := State.startIo_device (s := s.followProgram) (phase := .wantsOrder) hd haccepts
    refine ⟨_, State.perform_done ha (heffect.trans (State.withDevice_some (s := s.followProgram) hd hc _)), ?_, hself, hother⟩
    rw [State.startIo_accepted _ _ haccepts]
    rfl

/-- Settles O33. -/
theorem testInstructionsOnlyReport : Obligations.TestInstructionsOnlyReport := by
  intro s n ha hn
  subst hn
  refine ⟨fun hnone => ?none, fun d hd hc => ?some⟩
  case none =>
    have hdone (k : Device → State) := State.withDevice_none (s := s.followProgram) hnone k
    exact ⟨State.perform_done ha (hdone _), State.perform_done ha (hdone _)⟩
  case some =>
    have hdone (k : Device → State) := State.withDevice_some (s := s.followProgram) hd hc k
    have haccepts : Device.accepts d = decide (d.condition = .ready ∧ d.controller = .ready ∧ d.pending = false) := by
      rw [Bool.eq_iff_iff, Device.accepts_iff, decide_eq_true_iff]
    refine ⟨State.perform_done ha ((hdone _).trans ?_), State.perform_done ha (hdone _)⟩
    rw [haccepts]
    rfl

/-! ### HIO and AIO -/

/-- A halted device is quiet, with nothing pending. -/
theorem State.haltDevice_self {s : State} {n : Byte} {d : Device} (hd : s.device n = some d) :
    ∃ d1, (s.haltDevice d).device n = some d1 ∧ d1.phase = .quiet ∧ d1.pending = false := by
  have hclear {s1 : State} {d1 : Device} (hd1 : s1.device n = some d1) :
      (s1.updateDevice n fun d => { d with pending := false }).device n = some { d1 with pending := false } := by
    rw [State.updateDevice_device _ _ _ _ (by simp), hd1, Option.map_some, if_pos (State.device_number hd1)]
  unfold State.haltDevice
  rw [State.device_number hd]
  dsimp only
  split
  case isTrue hquiet => exact ⟨_, hclear hd, by simpa using hquiet, rfl⟩
  case isFalse => exact ⟨_, hclear (s.endOperation_self n d hd), rfl, rfl⟩

theorem State.haltDevice_other {s : State} {n k : Byte} {d : Device} (hd : s.device n = some d)
    (hk : sameController k n = false) : (s.haltDevice d).device k = s.device k := by
  unfold State.haltDevice
  rw [State.device_number hd]
  dsimp only
  rw [State.updateDevice_other _ _ _ _ (by simp) (ne_of_not_sameController hk)]
  split
  · rfl
  · exact s.endOperation_other n k hk

/-- AIO takes the first device with an interrupt pending. -/
theorem aioEffect_some {s : State} {d : Device} (h : s.devices.find? (fun d => d.pending) = some d) :
    aioEffect s = { s.updateDevice d.number fun d => { d with pending := false } with
      a := d.aioStatus ++ d.number, o := false, c := d.aioUnusual } := by
  simp only [aioEffect, h]

/-- Settles O34: the device of the number, or the first one pending, and what a look-up gives afterwards. -/
theorem haltAndAcknowledge : Obligations.HaltAndAcknowledge := by
  intro s n ha hn
  subst hn
  refine ⟨fun d hd hc => ?halt, fun hnone => ?none, fun hquiet => ?quiet, fun before d after hlist hd hbefore => ?first⟩
  case halt =>
    have hdone := State.withDevice_some (s := s.followProgram) hd hc fun d =>
      (s.followProgram.haltDevice d).respond (Device.statusByte d) false (d.controller == .busy)
    refine ⟨_, State.perform_done ha hdone, ?_, State.haltDevice_self (s := s.followProgram) hd, fun k hk =>
      State.haltDevice_other (s := s.followProgram) hd hk⟩
    rw [State.haltDevice_frame]
    rfl
  case none => exact State.perform_done ha (State.withDevice_none (s := s.followProgram) hnone _)
  case quiet =>
    have hnone : s.followProgram.devices.find? (fun d => d.pending) = none :=
      List.find?_eq_none.2 fun d hd => by simp [hquiet d hd]
    refine (State.perform_effect aioEffect ha).trans ?_
    simp only [aioEffect, hnone]
    rfl
  case first =>
    have hfind : s.followProgram.devices.find? (fun d => d.pending) = some d := by
      refine List.find?_eq_some_iff_append.2 ⟨hd, before, after, hlist, fun b hb => ?_⟩
      simp [hbefore b hb]
    refine ⟨_, State.perform_effect aioEffect ha, ?_, fun d1 hd1 => ?_, fun k hk => ?_⟩
    · rw [aioEffect_some hfind]
      rfl
    · rw [aioEffect_some hfind] at hd1
      have hd1 : (s.followProgram.updateDevice d.number fun d => { d with pending := false }).device d.number = some d1 := hd1
      rw [State.updateDevice_device _ _ _ _ (by simp), Option.map_eq_some_iff] at hd1
      obtain ⟨d0, hd0, rfl⟩ := hd1
      rw [if_pos (State.device_number hd0)]
    · rw [aioEffect_some hfind]
      exact State.updateDevice_other _ _ _ _ (by simp) hk

/-! ### SIO under the load condition -/

/-- The channel registers after the load's preparation. -/
theorem State.prepareLoad_channel {s : State} (h : channelOf s.deviceNumber < ioChannels s.cfg) (k : Nat) :
    s.prepareLoad.channel k =
      if k = 2 * channelOf s.deviceNumber + 1 then 0x0080#16
      else if k = 2 * channelOf s.deviceNumber then 0x0000#16
      else s.channel k := by
  have hle := ioChannels_le s.cfg
  have hch : s.prepareLoad.channel k =
      ((s.setChannelEven (channelOf s.deviceNumber) 0x0000#16).setChannelOdd (channelOf s.deviceNumber) 0x0080#16).channel k := by
    simp only [State.prepareLoad, if_pos h]
    rfl
  rw [hch, State.setChannelOdd, State.setChannel_channel _ _ _ _ (by omega), State.setChannelEven,
    State.setChannel_channel _ _ _ _ (by omega)]

theorem State.prepareLoad_ch_uninstalled {s : State} (h : ioChannels s.cfg ≤ channelOf s.deviceNumber) :
    s.prepareLoad.ch = s.ch := by
  simp only [State.prepareLoad, if_neg (Nat.not_lt.2 h)]

theorem State.prepareLoad_device (s : State) (k : Byte) : s.prepareLoad.device k = s.device k := by
  rw [State.prepareLoad_frame]
  rfl

/-- Settles O35: the preparation of the load, and then SIO with the Read order. -/
theorem loadConditionStartsTheLoad : Obligations.LoadConditionStartsTheLoad := by
  intro s s1 n ha hload hn hs1
  subst hn
  subst hs1
  have heffect : sioEffect s.followProgram =
      s.followProgram.prepareLoad.withDevice fun d => s.followProgram.prepareLoad.startIo (.underOrder 0x02#8) d :=
    if_pos hload
  have hnumber : s.followProgram.prepareLoad.deviceNumber = s.deviceNumber := by
    rw [State.prepareLoad_frame]
    rfl
  have hdevice (k : Byte) : s.followProgram.prepareLoad.device k = s.device k := State.prepareLoad_device _ k
  have hcfg : s.followProgram.prepareLoad.cfg = s.cfg := by
    rw [State.prepareLoad_frame]
    rfl
  have hchannel (hc : channelOf s.deviceNumber < ioChannels s.cfg) (k : Nat) :=
    State.prepareLoad_channel (s := s.followProgram) hc k
  have hregisters {t : State} (hc : channelOf s.deviceNumber < ioChannels s.cfg)
      (ht : t.ch = s.followProgram.prepareLoad.ch) :
      t.channelEven (channelOf s.deviceNumber) = 0x0000#16 ∧ t.channelOdd (channelOf s.deviceNumber) = 0x0080#16 ∧
      ∀ k : Nat, k ≠ 2 * channelOf s.deviceNumber → k ≠ 2 * channelOf s.deviceNumber + 1 → t.channel k = s.channel k := by
    have hkeep (k : Nat) : t.channel k = s.followProgram.prepareLoad.channel k := by rw [State.channel, ht]; rfl
    refine ⟨?_, ?_, fun k h0 h1 => ?_⟩
    · exact ((hkeep _).trans (hchannel hc _)).trans ((if_neg (by omega)).trans (if_pos rfl))
    · exact ((hkeep _).trans (hchannel hc _)).trans (if_pos rfl)
    · exact ((hkeep _).trans (hchannel hc _)).trans ((if_neg h1).trans (if_neg h0))
  refine ⟨fun d hd hc => ?some, fun hnone => ?none⟩
  case some =>
    have hd1 : s.followProgram.prepareLoad.device s.followProgram.prepareLoad.deviceNumber = some d := by
      rw [hnumber, hdevice]
      exact hd
    have hdone := State.withDevice_some hd1 (hnumber.symm ▸ hcfg.symm ▸ hc)
      fun d => s.followProgram.prepareLoad.startIo (.underOrder 0x02#8) d
    have hframe := congrArg State.ch (s.followProgram.prepareLoad.startIo_frame (.underOrder 0x02#8) d)
    refine ⟨_, State.perform_done ha (heffect.trans hdone), ?_⟩
    obtain ⟨heven, hodd, hother⟩ := hregisters hc hframe
    refine ⟨heven, hodd, hother, fun h0 h1 h2 => ?_, fun hno => ?_⟩
    · have haccepts := (Device.accepts_iff d).2 ⟨h0, h1, h2⟩
      have hd2 : s.followProgram.prepareLoad.device s.deviceNumber = some d := (hdevice _).trans hd
      obtain ⟨hself, hothers⟩ := State.startIo_device (phase := .underOrder 0x02#8) hd2 haccepts
      refine ⟨?_, hself, fun k hk => (hothers k hk).trans (hdevice k)⟩
      rw [State.startIo_accepted _ _ haccepts, State.prepareLoad_frame]
      rfl
    · rw [State.startIo_refused _ _ fun h => hno ((Device.accepts_iff d).1 h), State.prepareLoad_frame]
      rfl
  case none =>
    have hnone1 : s.followProgram.prepareLoad.device s.followProgram.prepareLoad.deviceNumber = none := by
      rw [hnumber, hdevice]
      exact hnone
    refine ⟨_, State.perform_done ha (heffect.trans (State.withDevice_none hnone1 _)), ?_,
      fun hc => hregisters hc rfl, fun hc => State.prepareLoad_ch_uninstalled (s := s.followProgram) hc⟩
    rw [State.prepareLoad_frame]
    rfl

end Sys2Proof.Machine
end

section
/-! The service of a channel and channel end (44_io.md R234 to R240, R249). -/

namespace Sys2Proof.Machine

open Sys2Proof

/-! ### The flags and the count of an odd register -/

theorem Word.bit_eq_div (w : Word) {k : Nat} (h : k < 16) : Word.bit w k = decide (w.toNat / 2 ^ (15 - k) % 2 = 1) := by
  have htest : Word.bit w k = w.toNat.testBit (15 - k) := by
    simp [Word.bit, BitVec.getMsbD_eq_getLsbD, BitVec.getLsbD, h]
  rw [htest, Nat.testBit_eq_decide_div_mod_eq]

/-- Marking an error leaves what is to the right of the error flag. -/
theorem markError_mod (w : Word) (error : Bool) : (markError w error).toNat % 2 ^ 15 = w.toNat % 2 ^ 15 := by
  unfold markError
  split
  · rw [BitVec.toNat_or, Nat.or_mod_two_pow]
    exact Nat.or_zero _
  · rfl

/-- Counting a byte leaves the flags and takes 1 from the count. -/
theorem sub_one_toNat {odd : Word} (h : 1 ≤ odd.toNat % 0x2000) : (odd - 1).toNat = odd.toNat - 1 := by
  have hlt := odd.isLt
  rw [BitVec.toNat_sub]
  simp only [BitVec.ofNat_eq_ofNat, BitVec.toNat_ofNat]
  omega

/-- The odd register after a byte has moved. -/
theorem counted_odd {odd new : Word} {error : Bool} (hnew : new = markError (odd - 1) error)
    (h : 1 ≤ odd.toNat % 0x2000) :
    new.toNat % 0x2000 = odd.toNat % 0x2000 - 1 ∧ Word.bit new 1 = Word.bit odd 1 ∧ Word.bit new 2 = Word.bit odd 2 ∧
    new.msb = (odd.msb || error) := by
  have hlow : new.toNat % 2 ^ 15 = (odd.toNat - 1) % 2 ^ 15 := by rw [hnew, markError_mod, sub_one_toNat h]
  have hmsb : (odd - 1).msb = odd.msb := by
    rw [BitVec.msb_eq_decide, BitVec.msb_eq_decide, sub_one_toNat h]
    exact decide_eq_decide.2 (by norm_num; omega)
  rw [Word.bit_eq_div _ (by decide), Word.bit_eq_div _ (by decide), Word.bit_eq_div _ (by decide),
    Word.bit_eq_div _ (by decide)]
  refine ⟨by omega, decide_eq_decide.2 (by norm_num; omega), decide_eq_decide.2 (by norm_num; omega), ?_⟩
  rw [hnew, markError_msb, hmsb]

/-- The count of the default layout is the low 13 bits. -/
theorem byteCount_default (odd : Word) : byteCount {} odd = odd.toNat % 0x2000 := rfl

/-! ### A byte moves -/

/-- A partial write changes no other word, in any memory. -/
theorem State.readWord_writeHalf_ne (s : State) {addr other : Word} (right : Bool) (b : Byte) (h : other ≠ addr) :
    (s.writeHalf addr right b).readWord other = s.readWord other := by
  have hne : other.toNat ≠ addr.toNat := fun he => h (BitVec.eq_of_toNat_eq he)
  have hright : right.toNat < 2 := Bool.toNat_lt right
  have hbyte (k : Nat) (hk : k / 2 = other.toNat) : (s.writeHalf addr right b).mem.byteAt k = s.mem.byteAt k := by
    unfold State.writeHalf
    dsimp only
    split
    · exact Memory.byteAt_setByte_ne _ _ _ _ (by omega)
    · rfl
  unfold State.readWord
  rw [hbyte _ (by omega), hbyte _ (by omega)]
  rfl

/-- The channel registers after a byte has moved: the word address advances past an odd count, the count goes down, and E
takes the error (44_io.md R234, R249). -/
def State.moveChannel (s : State) (c : Nat) (error : Bool) : State :=
  (if byteCount s.cfg.iocd (s.channelOdd c) % 2 = 1 then s.setChannelEven c (s.channelEven c + 1) else s).setChannelOdd c
    (markError (s.channelOdd c - 1) error)

theorem State.advanceChannel_eq (s : State) (n : Byte) (c : Nat) (error : Bool) : s.advanceChannel n c error =
    if byteCount s.cfg.iocd (s.channelOdd c) = 1 then
      (s.moveChannel c error).countExhausted n c (markError (s.channelOdd c - 1) error)
    else .next (s.moveChannel c error) := rfl

theorem State.moveChannel_frame (s : State) (c : Nat) (error : Bool) :
    s.moveChannel c error = { s with ch := (s.moveChannel c error).ch } := by
  unfold State.moveChannel State.setChannelEven State.setChannelOdd
  split
  · rw [State.setChannel_frame (s.setChannel _ _), State.setChannel_frame s]
  · rw [State.setChannel_frame s]

theorem State.moveChannel_channel (s : State) {c : Nat} (error : Bool) (hc : c < ioChannels s.cfg) (k : Nat) :
    (s.moveChannel c error).channel k =
      if k = 2 * c + 1 then markError (s.channelOdd c - 1) error
      else if k = 2 * c then
        (if byteCount s.cfg.iocd (s.channelOdd c) % 2 = 1 then s.channelEven c + 1 else s.channelEven c)
      else s.channel k := by
  have hle := ioChannels_le s.cfg
  unfold State.moveChannel State.setChannelEven State.setChannelOdd
  rw [State.setChannel_channel _ _ _ _ (by omega)]
  split
  case isTrue => rfl
  case isFalse =>
    split
    · rw [State.setChannel_channel _ _ _ _ (by omega)]
    · split
      · subst k
        rfl
      · rfl

/-- A service step that the rules allow moves a byte in the direction of the device's order. -/
theorem State.service_toMemory {s : State} {n : Byte} {d : Device} (b : Byte) (bad : Bool) (hd : s.device n = some d)
    (hauto : d.automatic = true) (hc : channelOf n < ioChannels s.cfg)
    (hcount : byteCount s.cfg.iocd (s.channelOdd (channelOf n)) ≠ 0) (hdir : d.direction = .toMemory) :
    s.service n b bad = (s.writeHalf (s.channelEven (channelOf n))
      (decide (byteCount s.cfg.iocd (s.channelOdd (channelOf n)) % 2 = 1)) b).advanceChannel n (channelOf n) bad := by
  simp [State.service, hd, hauto, hc, hcount, hdir]

theorem State.service_toDevice {s : State} {n : Byte} {d : Device} (b : Byte) (bad : Bool) (hd : s.device n = some d)
    (hauto : d.automatic = true) (hc : channelOf n < ioChannels s.cfg)
    (hcount : byteCount s.cfg.iocd (s.channelOdd (channelOf n)) ≠ 0) (hdir : d.direction = .toDevice) :
    s.service n b bad = (s.updateDevice n fun d => d.take
      (if byteCount s.cfg.iocd (s.channelOdd (channelOf n)) % 2 = 1 then (s.readWord (s.channelEven (channelOf n))).lo
        else (s.readWord (s.channelEven (channelOf n))).hi)).advanceChannel n (channelOf n)
      (s.parityError (s.channelEven (channelOf n))) := by
  simp [State.service, hd, hauto, hc, hcount, hdir]

/-- What a device does with a byte (44_io.md R238, R240). -/
theorem Device.take_eq (d : Device) (byte : Byte) : d.take byte =
    if d.phase = .wantsOrder then
      { d with
        phase := .underOrder byte
        lastByte := byte
        pending := d.pending || (d.interpretsStop && byte.msb && decide (byte.toNat % 0x10 = 0)) }
    else { d with lastByte := byte } := by
  have hstop : isStopOrder byte = decide (byte.toNat % 0x10 = 0) := by
    rw [isStopOrder, Bool.eq_iff_iff, beq_iff_eq, decide_eq_true_iff, ← BitVec.toNat_inj]
    simp [BitVec.extractLsb'_toNat]
  have hmsb : byte.getMsbD 0 = byte.msb := rfl
  unfold Device.take
  split
  case h_1 h => rw [if_pos h, hstop, hmsb, Bool.and_assoc, Bool.and_assoc, Bool.and_comm (byte.msb)]
  case h_2 h => rw [if_neg h]

/-- The direction an order gives, by the order as a number (44_io.md R238). -/
theorem orderDirection_eq (order : Byte) : orderDirection order =
    if order.toNat % 4 = 1 ∨ order.toNat % 4 = 3 then .toDevice
    else if order.toNat % 4 = 2 ∨ order.toNat % 0x10 = 0xC ∨ order.toNat % 0x10 = 4 then .toMemory
    else .none := by
  revert order
  decide

/-- The state before the channel advances: the byte is stored, or taken by the device, and the channel is as it was. -/
theorem State.service_eq {s : State} {n : Byte} {d : Device} (b : Byte) (bad : Bool) (hd : s.device n = some d)
    (hauto : d.automatic = true) (hc : channelOf n < ioChannels s.cfg)
    (hcount : byteCount s.cfg.iocd (s.channelOdd (channelOf n)) ≠ 0)
    (hdir : d.direction = .toMemory ∨ d.direction = .toDevice) :
    ∃ s1 error, s.service n b bad = s1.advanceChannel n (channelOf n) error ∧
      s1 = { s with mem := s1.mem, devices := s1.devices } ∧
      (d.direction = .toMemory → error = bad ∧ s1 = s.writeHalf (s.channelEven (channelOf n))
        (decide (byteCount s.cfg.iocd (s.channelOdd (channelOf n)) % 2 = 1)) b) ∧
      (d.direction = .toDevice → error = s.parityError (s.channelEven (channelOf n)) ∧ s1 = s.updateDevice n fun d => d.take
        (if byteCount s.cfg.iocd (s.channelOdd (channelOf n)) % 2 = 1 then (s.readWord (s.channelEven (channelOf n))).lo
          else (s.readWord (s.channelEven (channelOf n))).hi)) := by
  obtain hdir | hdir := hdir
  · exact ⟨_, _, State.service_toMemory b bad hd hauto hc hcount hdir, rfl, fun _ => ⟨rfl, rfl⟩,
      fun h => absurd (hdir.symm.trans h) nofun⟩
  · exact ⟨_, _, State.service_toDevice b bad hd hauto hc hcount hdir, rfl, fun h => absurd (hdir.symm.trans h) nofun,
      fun _ => ⟨rfl, rfl⟩⟩

/-- A device that takes a byte is found with it; every other device is as it was. -/
theorem State.updateDevice_take {s : State} {n : Byte} {d : Device} (hd : s.device n = some d) (byte : Byte) :
    (s.updateDevice n fun d => d.take byte).device n = some (d.take byte) ∧
    ∀ k : Byte, k ≠ n → (s.updateDevice n fun d => d.take byte).device k = s.device k := by
  have hnumber (d : Device) : (d.take byte).number = d.number := (d.take_keeps byte).1
  refine ⟨?_, fun k hk => State.updateDevice_other _ _ _ _ hnumber hk⟩
  rw [State.updateDevice_device _ _ _ _ hnumber, hd, Option.map_some, if_pos (State.device_number hd)]

/-- The bytes that a partial write leaves and the one it writes. -/
theorem ofBytes_half (b : Byte) (w : Word) (count : Nat) :
    (if decide (count % 2 = 1) = true then Word.ofBytes w.hi b else Word.ofBytes b w.lo) =
      if count % 2 = 0 then b ++ w.lo else w.hi ++ b := by
  obtain h | h := Nat.mod_two_eq_zero_or_one count
  · simp [h, Word.ofBytes]
  · simp [h, Word.ofBytes]

/-- A channel that advances after its byte has moved: what the channel registers and the rest of the state are. -/
theorem State.moveChannel_after {s s1 : State} (hs1 : s1 = { s with mem := s1.mem, devices := s1.devices }) (c : Nat)
    (error : Bool) : s1.moveChannel c error =
      { s with mem := s1.mem, ch := (s1.moveChannel c error).ch, devices := s1.devices } :=
  (s1.moveChannel_frame c error).trans (congrArg (fun u : State => { u with ch := (s1.moveChannel c error).ch }) hs1)

theorem State.moveChannel_channel_after {s s1 : State} (hs1 : s1 = { s with mem := s1.mem, devices := s1.devices }) {c : Nat}
    (error : Bool) (hc : c < ioChannels s.cfg) (k : Nat) : (s1.moveChannel c error).channel k =
      if k = 2 * c + 1 then markError (s.channelOdd c - 1) error
      else if k = 2 * c then
        (if byteCount s.cfg.iocd (s.channelOdd c) % 2 = 1 then s.channelEven c + 1 else s.channelEven c)
      else s.channel k := by
  rw [hs1]
  exact State.moveChannel_channel { s with mem := s1.mem, devices := s1.devices } error hc k

/-- Settles O36: the byte moves, and the channel advances without exhausting the count. -/
theorem serviceStoresOneInputByte : Obligations.ServiceStoresOneInputByte := by
  refine ⟨fun s n b bad d addr odd count hm hl hd hauto hc hdir haddr hodd hcnt h2 => ?service, fun d h => ?order,
    fun d order h => ?direction⟩
  case order => simp only [Device.direction, h]
  case direction =>
    simp only [Device.direction, h]
    exact orderDirection_eq order
  case service =>
    have hbytes : byteCount s.cfg.iocd (s.channelOdd (channelOf n)) = count := by
      rw [hl, byteCount_default, hcnt, hodd]
    obtain ⟨s1, error, hservice, hs1, hmemory, hdevice⟩ := State.service_eq b bad hd hauto hc (by omega) hdir
    have hcanonical : s.mem.Canonical := ((Memory.wf_iff s.mem).1 hm).1
    have hchannel := State.moveChannel_channel_after hs1 error hc
    have hframe := State.moveChannel_after hs1 (channelOf n) error
    rw [hbytes, ← haddr] at hmemory hdevice
    rw [← hodd] at hbytes
    simp only [← haddr, ← hodd, hbytes] at hchannel
    have hodd1 : s1.channelOdd (channelOf n) = odd := by
      rw [hs1, hodd]
      rfl
    have hcfg1 : s1.cfg = s.cfg := by rw [hs1]
    have hnext : s.service n b bad = .next (s1.moveChannel (channelOf n) error) := by
      rw [hservice, State.advanceChannel_eq, hodd1, hcfg1, hbytes, if_neg (by omega)]
    generalize s1.moveChannel (channelOf n) error = t at *
    have hodd2 : t.channelOdd (channelOf n) = markError (odd - 1) error := (hchannel _).trans (if_pos rfl)
    obtain ⟨hcount, hbit1, hbit2, hmsb⟩ := counted_odd hodd2 (by omega)
    have htmem := congrArg State.mem hframe
    have htdevices := congrArg State.devices hframe
    have htread (w : Word) : t.readWord w = s1.readWord w := by
      rw [hframe, hs1]
      rfl
    have htdevice (k : Byte) : t.device k = s1.device k := by rw [State.device, htdevices]; rfl
    refine ⟨t, hnext, ?frame, ?even, by omega, hbit1, hbit2, fun k h0 h1 => ?others, fun hd1 => ?memory, fun hd1 => ?device⟩
    case frame =>
      rw [hframe]
    case even =>
      refine (hchannel _).trans ((if_neg (by omega)).trans ((if_pos rfl).trans ?_))
      obtain h | h := Nat.mod_two_eq_zero_or_one count
      · rw [if_neg (by omega), if_pos h]
      · rw [if_pos h, if_neg (by omega)]
    case others => exact (hchannel k).trans ((if_neg h1).trans (if_neg h0))
    case memory =>
      obtain ⟨rfl, hs1⟩ := hmemory hd1
      refine ⟨htdevices.trans (by rw [hs1]; rfl), hmsb, fun hlocation => ?_, fun other hother => ?_⟩
      · rw [htread, hs1, State.readWord_writeHalf _ _ _ _ _ hcanonical hlocation, if_pos rfl, ofBytes_half]
      · rw [htread, hs1, State.readWord_writeHalf_ne _ _ _ hother]
    case device =>
      obtain ⟨rfl, hs1⟩ := hdevice hd1
      rintro byte rfl
      have hbyte : (if count % 2 = 1 then (s.readWord addr).lo else (s.readWord addr).hi) =
          if count % 2 = 0 then (s.readWord addr).hi else (s.readWord addr).lo := by
        obtain h | h := Nat.mod_two_eq_zero_or_one count
        · rw [if_neg (by omega), if_pos h]
        · rw [if_pos h, if_neg (by omega)]
      rw [hbyte] at hs1
      obtain ⟨hself, hother⟩ := State.updateDevice_take hd
        (if count % 2 = 0 then (s.readWord addr).hi else (s.readWord addr).lo)
      refine ⟨htmem.trans (by rw [hs1]; rfl), hmsb, ?_, fun k hk => ?_⟩
      · rw [htdevice, hs1, hself, Device.take_eq]
      · rw [htdevice, hs1, hother k hk]

/-! ### The count is exhausted -/

/-- A change of one device that keeps its number. -/
theorem State.updateDevice_self {s : State} {n : Byte} {d : Device} (hd : s.device n = some d) (f : Device → Device)
    (hf : ∀ d, (f d).number = d.number) : (s.updateDevice n f).device n = some (f d) := by
  rw [State.updateDevice_device _ _ _ _ hf, hd, Option.map_some, if_pos (State.device_number hd)]

/-- Without data chaining the device is told count done. -/
theorem State.countExhausted_done {s : State} {n : Byte} {c : Nat} {odd : Word} (h : chains s.cfg.iocd odd = false) :
    s.countExhausted n c odd = .next (s.updateDevice n fun d => { d with phase := .countDone }) := by
  simp [State.countExhausted, h]

/-- With data chaining the IOCD after the table is loaded. -/
theorem State.countExhausted_chained {s : State} {n : Byte} {c : Nat} {odd : Word} (h : chains s.cfg.iocd odd = true)
    (hnext : byteCount s.cfg.iocd (s.readWord (s.channelEven c + 1)) ≠ 0) : s.countExhausted n c odd =
      .next (((if wantsInterrupt s.cfg.iocd odd then s.raiseDeviceInterrupt n else s).setChannelEven c
        (s.readWord (s.channelEven c))).setChannelOdd c (s.readWord (s.channelEven c + 1))) := by
  rw [State.countExhausted, if_pos h]
  exact if_neg hnext

/-- The device interrupt of the old IOCD's I flag. -/
theorem State.raiseDeviceInterrupt_if {s : State} {n : Byte} {d : Device} (hd : s.device n = some d) (flag : Bool) :
    (if flag then s.raiseDeviceInterrupt n else s).device n = some { d with pending := d.pending || flag } ∧
    ∀ k : Byte, k ≠ n → (if flag then s.raiseDeviceInterrupt n else s).device k = s.device k := by
  cases flag with
  | false => exact ⟨by simp [hd], fun _ _ => rfl⟩
  | true =>
    refine ⟨?_, fun k hk => s.updateDevice_other n k _ (by simp) hk⟩
    rw [if_pos rfl, Bool.or_true]
    exact State.updateDevice_self hd (fun d => { d with pending := true }) (by simp)

/-- The end of a table, under the default layout: count done, or the chained IOCD. -/
theorem State.countExhausted_next {s : State} {n : Byte} {c : Nat} {odd : Word} {d : Device} (hd : s.device n = some d)
    (hc : c < ioChannels s.cfg) (hl : s.cfg.iocd = {})
    (hnext : Word.bit odd 1 = true → (s.readWord (s.channelEven c + 1)).toNat % 0x2000 ≠ 0) :
    ∃ t, s.countExhausted n c odd = .next t ∧ t = { s with ch := t.ch, devices := t.devices } ∧
      (∀ k : Byte, k ≠ n → t.device k = s.device k) ∧
      (∀ k : Nat, k ≠ 2 * c → k ≠ 2 * c + 1 → t.channel k = s.channel k) ∧
      (Word.bit odd 1 = false → t.device n = some { d with phase := .countDone } ∧ t.ch = s.ch) ∧
      (Word.bit odd 1 = true → t.device n = some { d with pending := d.pending || Word.bit odd 2 } ∧
        t.channelEven c = s.readWord (s.channelEven c) ∧ t.channelOdd c = s.readWord (s.channelEven c + 1)) := by
  have hle := ioChannels_le s.cfg
  have hchains : chains s.cfg.iocd odd = Word.bit odd 1 := by rw [hl]; rfl
  have hwants : wantsInterrupt s.cfg.iocd odd = Word.bit odd 2 := by rw [hl]; rfl
  cases hbit : Word.bit odd 1 with
  | false =>
    refine ⟨_, State.countExhausted_done (hchains.trans hbit), rfl, fun k hk => s.updateDevice_other n k _ (by simp) hk,
      fun _ _ _ => rfl, fun _ => ⟨State.updateDevice_self hd _ (by simp), rfl⟩, nofun⟩
  | true =>
    have hcount : byteCount s.cfg.iocd (s.readWord (s.channelEven c + 1)) ≠ 0 := by
      rw [hl]
      exact hnext hbit
    have hexhausted := State.countExhausted_chained (n := n) (hchains.trans hbit) hcount
    rw [hwants] at hexhausted
    obtain ⟨hself, hother⟩ := State.raiseDeviceInterrupt_if hd (Word.bit odd 2)
    have hraised : (if Word.bit odd 2 then s.raiseDeviceInterrupt n else s) =
        { s with devices := (if Word.bit odd 2 then s.raiseDeviceInterrupt n else s).devices } := by
      split <;> rfl
    generalize (if Word.bit odd 2 then s.raiseDeviceInterrupt n else s) = s1 at *
    have hchannel (k : Nat) : ((s1.setChannelEven c (s.readWord (s.channelEven c))).setChannelOdd c
        (s.readWord (s.channelEven c + 1))).channel k =
          if k = 2 * c + 1 then s.readWord (s.channelEven c + 1)
          else if k = 2 * c then s.readWord (s.channelEven c) else s.channel k := by
      rw [State.setChannelOdd, State.setChannel_channel _ _ _ _ (by omega), State.setChannelEven,
        State.setChannel_channel _ _ _ _ (by omega), hraised]
      rfl
    have hframe : (s1.setChannelEven c (s.readWord (s.channelEven c))).setChannelOdd c
        (s.readWord (s.channelEven c + 1)) = { s1 with ch := ((s1.setChannelEven c (s.readWord
          (s.channelEven c))).setChannelOdd c (s.readWord (s.channelEven c + 1))).ch } := by
      rw [State.setChannelOdd, State.setChannelEven, State.setChannel_frame (s1.setChannel _ _), State.setChannel_frame s1]
    generalize (s1.setChannelEven c (s.readWord (s.channelEven c))).setChannelOdd c
      (s.readWord (s.channelEven c + 1)) = t at *
    have hdevice (k : Byte) : t.device k = s1.device k := by rw [hframe]; rfl
    refine ⟨t, hexhausted, ?_, fun k hk => (hdevice k).trans (hother k hk),
      fun k h0 h1 => (hchannel k).trans ((if_neg h1).trans (if_neg h0)), nofun,
      fun _ => ⟨(hdevice n).trans hself, (hchannel _).trans ((if_neg (by omega)).trans (if_pos rfl)),
        (hchannel _).trans (if_pos rfl)⟩⟩
    rw [hframe, hraised]

/-- Settles O37: the last byte moves, and the table ends with count done or with the chained IOCD. -/
theorem exhaustedCountEndsOrChains : Obligations.ExhaustedCountEndsOrChains := by
  intro s n b last bad d served addr odd hm hl hd hauto hc hdir haddr hodd hcnt hnext hlast hserved
  have hcanonical : s.mem.Canonical := ((Memory.wf_iff s.mem).1 hm).1
  have hbytes : byteCount s.cfg.iocd odd = 1 := by rw [hl, byteCount_default, hcnt]
  obtain ⟨s1, error, hservice, hs1, hmemory, hdevice⟩ :=
    State.service_eq b bad hd hauto hc (by rw [← hodd, hbytes]; decide) hdir.symm
  have hchannel := State.moveChannel_channel_after hs1 error hc
  have hframe := State.moveChannel_after hs1 (channelOf n) error
  rw [← hodd, ← haddr, hbytes, if_pos rfl, ← hlast] at hdevice
  rw [← hodd, ← haddr, hbytes] at hmemory
  simp only [← haddr, ← hodd, hbytes] at hchannel
  have hodd1 : s1.channelOdd (channelOf n) = odd := by
    rw [hs1, hodd]
    rfl
  have hcfg1 : s1.cfg = s.cfg := by rw [hs1]
  have hadvance : s.service n b bad =
      (s1.moveChannel (channelOf n) error).countExhausted n (channelOf n) (markError (odd - 1) error) := by
    rw [hservice, State.advanceChannel_eq, hodd1, hcfg1, if_pos hbytes]
  obtain ⟨hserve, hothers⟩ : s1.device n = some served ∧ ∀ k : Byte, k ≠ n → s1.device k = s.device k := by
    obtain hdir | hdir := hdir
    · obtain ⟨-, hs1⟩ := hdevice hdir
      obtain ⟨hself, hother⟩ := State.updateDevice_take hd last
      rw [hs1, hserved, if_neg (by simp [hdir]), hself, Device.take_eq]
      exact ⟨rfl, hother⟩
    · obtain ⟨-, hs1⟩ := hmemory hdir
      rw [hs1, hserved, if_pos hdir]
      exact ⟨hd, fun _ _ => rfl⟩
  have hread (w : Word) (hw : w ≠ addr) : s1.readWord w = s.readWord w := by
    obtain hdir | hdir := hdir
    · rw [(hdevice hdir).2]
      rfl
    · rw [(hmemory hdir).2, State.readWord_writeHalf_ne _ _ _ hw]
  have hnext1 : addr + 1 ≠ addr := by bv_omega
  have hnext2 : addr + 1 + 1 = addr + 2 ∧ addr + 2 ≠ addr := by
    refine ⟨?_, ?_⟩ <;> bv_omega
  generalize s1.moveChannel (channelOf n) error = u at *
  have hueven : u.channelEven (channelOf n) = addr + 1 :=
    (hchannel _).trans ((if_neg (by omega)).trans ((if_pos rfl).trans (if_pos trivial)))
  have huodd : u.channelOdd (channelOf n) = markError (odd - 1) error := (hchannel _).trans (if_pos rfl)
  obtain ⟨hcount, hbit1, hbit2, hmsb⟩ := counted_odd huodd (by omega)
  rw [huodd] at hbit1 hbit2
  have huread (w : Word) : u.readWord w = s1.readWord w := by
    rw [hframe, hs1]
    rfl
  have hudevice (k : Byte) : u.device k = s1.device k := by rw [hframe]; rfl
  have hucfg : u.cfg = s.cfg := by rw [hframe]
  obtain ⟨t, hexhausted, htframe, htothers, htchannel, hdone, hchained⟩ :=
    State.countExhausted_next (odd := markError (odd - 1) error) ((hudevice n).trans hserve) (hucfg ▸ hc) (hucfg ▸ hl)
      fun hchain => by
        rw [hueven, hnext2.1, huread, hread _ hnext2.2]
        exact hnext (hbit1 ▸ hchain)
  rw [hueven, hnext2.1, huread, huread, hread _ hnext1, hread _ hnext2.2, hbit2] at hchained
  rw [hbit1] at hdone hchained
  have htmem : t.mem = s1.mem := by rw [htframe, hframe]
  have htread (w : Word) : t.readWord w = s1.readWord w := by
    rw [htframe, hframe, hs1]
    rfl
  refine ⟨t, hadvance.trans hexhausted, ?frame, fun hd1 => ?output, fun hd1 => ?input,
    fun k hk => (htothers k hk).trans ((hudevice k).trans (hothers k hk)),
    fun k h0 h1 => (htchannel k h0 h1).trans ((hchannel k).trans ((if_neg h1).trans (if_neg h0))), fun hb => ?done, hchained⟩
  case frame => rw [htframe, hframe]
  case output =>
    obtain ⟨-, hs1⟩ := hdevice hd1
    rw [htmem, hs1]
    rfl
  case input =>
    obtain ⟨-, hs1⟩ := hmemory hd1
    refine ⟨fun hlocation => ?_, fun other hother => (htread other).trans (hread other hother)⟩
    rw [htread, hs1, State.readWord_writeHalf _ _ _ _ _ hcanonical hlocation, if_pos rfl, ofBytes_half]
    rfl
  case done =>
    obtain ⟨hself, hch⟩ := hdone hb
    have htodd : t.channelOdd (channelOf n) = u.channelOdd (channelOf n) := by
      rw [State.channelOdd, State.channel, hch]
      rfl
    have hteven : t.channelEven (channelOf n) = u.channelEven (channelOf n) := by
      rw [State.channelEven, State.channel, hch]
      rfl
    rw [htodd, hteven]
    refine ⟨hself, hueven, by omega, ?_, ?_, hmsb.trans ?_⟩
    · rw [huodd, hbit1, hb]
    · rw [huodd, hbit2]
    · obtain hdir | hdir := hdir
      · rw [(hdevice hdir).1, if_neg (by simp [hdir])]
      · rw [(hmemory hdir).1, if_pos hdir]

end Sys2Proof.Machine
end

section
/-! Channel end (44_io.md R236, R237). -/

namespace Sys2Proof.Machine

open Sys2Proof

/-- The bits of the word that holds the operational status byte. -/
theorem statusByte_bit (status : OperationalStatus) (k : Fin 16) :
    Word.bit (OperationalStatus.byte status ++ 0#8) k = (match k.val with
      | 0 => status.te
      | 1 => status.il
      | 2 => status.cm
      | 3 => status.ce
      | 4 => status.ue
      | _ => false) := by
  obtain ⟨te, il, cm, ce, ue⟩ := status
  cases te <;> cases il <;> cases cm <;> cases ce <;> cases ue <;> revert k <;> decide

/-- The state at the end of an operation, before the I flag raises a device interrupt. -/
def State.concludeOperation (s : State) (n : Byte) (status : OperationalStatus) : State :=
  ((s.setChannelEven (channelOf n) (OperationalStatus.byte status ++ 0#8)).endOperation n).updateDevice n
    fun d => { d with unusualEnd := status.ue }

theorem State.channelEnd_eq {s : State} {n : Byte} {d : Device} (status : OperationalStatus) (hd : s.device n = some d)
    (hc : channelOf n < ioChannels s.cfg) (hphase : d.phase ≠ .quiet) : s.channelEnd n status =
      if wantsInterrupt s.cfg.iocd (s.channelOdd (channelOf n)) then (s.concludeOperation n status).raiseDeviceInterrupt n
      else s.concludeOperation n status := by
  have hquiet : (d.phase == .quiet) = false := by simpa using hphase
  simp only [State.channelEnd, hd, hquiet, hc, decide_true, Bool.not_true, Bool.or_self, Bool.false_eq_true, if_false]
  rfl

theorem State.concludeOperation_frame (s : State) (n : Byte) (status : OperationalStatus) :
    s.concludeOperation n status =
      { s with ch := (s.concludeOperation n status).ch, devices := (s.concludeOperation n status).devices } := by
  unfold State.concludeOperation State.setChannelEven
  rw [State.setChannel_frame]
  rfl

theorem State.endOperation_updateDevice_channel (s : State) (n : Byte) (f : Device → Device) (k : Nat) :
    ((s.endOperation n).updateDevice n f).channel k = s.channel k := rfl

theorem State.concludeOperation_channel {s : State} {n : Byte} (status : OperationalStatus)
    (hc : channelOf n < ioChannels s.cfg) (k : Nat) : (s.concludeOperation n status).channel k =
      if k = 2 * channelOf n then (OperationalStatus.byte status ++ 0#8 : Word) else s.channel k := by
  have hle := ioChannels_le s.cfg
  refine (State.endOperation_updateDevice_channel _ n _ k).trans ?_
  rw [State.setChannelEven, State.setChannel_channel _ _ _ _ (by omega)]

theorem State.concludeOperation_device {s : State} {n : Byte} {d : Device} (status : OperationalStatus)
    (hd : s.device n = some d) : (s.concludeOperation n status).device n =
      some { d with phase := .quiet, condition := .ready, controller := .ready, unusualEnd := status.ue } := by
  have hd1 : (s.setChannelEven (channelOf n) (OperationalStatus.byte status ++ 0#8)).device n = some d := by
    rw [State.setChannelEven, State.setChannel_frame]
    exact hd
  exact State.updateDevice_self (State.endOperation_self _ n d hd1) (fun d => { d with unusualEnd := status.ue }) (by simp)

/-- Settles O38: the conclusion of the operation, and the interrupt of the I flag. -/
theorem channelEndDeliversStatus : Obligations.ChannelEndDeliversStatus := by
  intro s n d status hd hc hphase
  have hend := State.channelEnd_eq status hd hc hphase
  obtain ⟨hself, -⟩ := State.raiseDeviceInterrupt_if (State.concludeOperation_device status hd)
    (wantsInterrupt s.cfg.iocd (s.channelOdd (channelOf n)))
  rw [← hend] at hself
  have hraised : s.channelEnd n status =
      { s.concludeOperation n status with devices := (s.channelEnd n status).devices } := by
    rw [hend]
    split <;> rfl
  have hchannel (k : Nat) : (s.channelEnd n status).channel k =
      if k = 2 * channelOf n then (OperationalStatus.byte status ++ 0#8 : Word) else s.channel k := by
    rw [hraised]
    exact State.concludeOperation_channel status hc k
  refine ⟨_, _, rfl, ?_, fun k => ?_, (hchannel _).trans (if_neg (by omega)), hself, rfl, rfl, rfl, rfl, rfl⟩
  · rw [hraised, State.concludeOperation_frame]
  · rw [State.channelEven, hchannel, if_pos rfl]
    exact statusByte_bit status k

end Sys2Proof.Machine
end

section
/-! Entry, exit, counting and recognition (60_exceptions.md R280 to R294). -/

namespace Sys2Proof.Machine

open Sys2Proof

/-! ### Entry and exit -/

theorem State.enter_frame (s : State) (level : Level) : s.enter level = { s with
    mem := (s.enter level).mem
    levels := (s.enter level).levels
    wff := false
    p := s.readWord (levelLocation level) + 2
    hold := true } := rfl

/-- The two words an entry stores, and all others. -/
theorem State.enter_words {s : State} {level : Level} {q : Word} (hm : s.mem.wf = true)
    (hq : q = s.readWord (levelLocation level)) (h0 : s.hasLocation q = true) (h1 : s.hasLocation (q + 1) = true) :
    (s.enter level).readWord q = s.statusWord ∧ (s.enter level).readWord (q + 1) = s.p ∧
    ∀ addr : Word, addr ≠ q → addr ≠ q + 1 → (s.enter level).readWord addr = s.readWord addr := by
  have hcanonical : s.mem.Canonical := ((Memory.wf_iff s.mem).1 hm).1
  have hne : q ≠ q + 1 := by bv_omega
  have hread (a : Word) := State.enter_readWord s level a q hcanonical hq
  refine ⟨?_, ?_, fun addr ha hb => ?_⟩
  · rw [hread, if_neg (fun h => hne h.1), if_pos ⟨rfl, h0⟩]
  · rw [hread, if_pos ⟨rfl, h1⟩]
  · rw [hread, if_neg (fun h => hb h.1), if_neg (fun h => ha h.1)]

/-- Settles O40. -/
theorem entryStoresTheProgramStatus : Obligations.EntryStoresTheProgramStatus := by
  intro s level q hm hq h0 h1
  obtain ⟨hstatus, hp, hothers⟩ := State.enter_words hm hq h0 h1
  refine ⟨_, rfl, ?_, fun k => ?_, hp, hothers, s.enter_level level⟩
  · rw [hq]
    rfl
  · rw [hstatus]
    exact s.statusWord_bit k

/-- After the entry to the claimant, it is the highest active level: none before it on the chain was active. -/
theorem State.enter_highestActive {s : State} {level : Level} (h : s.claimant = some level) :
    (s.enter level).highestActive = some level := by
  obtain ⟨-, hclaims, higher, lower, hchain, hhigher⟩ := State.claimant_some h
  refine List.find?_eq_some_iff_append.2 ⟨?_, higher, lower, hchain, fun k hk => ?_⟩
  · rw [State.enter_level, if_pos rfl]
    rfl
  · rw [State.enter_level]
    split
    case isTrue hkl =>
      obtain ⟨hactive, heligible⟩ := hhigher level (hkl ▸ hk)
      obtain hclaims | hclaims := hclaims
      · exact absurd hclaims hactive
      · exact absurd (heligible.symm.trans hclaims) nofun
    case isFalse => simp [(hhigher k hk).1]

/-- Loading a status word that was stored restores the indicators, PP as far as the protection system is operative. -/
theorem State.loadStatus_statusWord (s u : State) : u.loadStatus s.statusWord =
    { u with pp := u.operative && s.pp, ii := s.ii, ei := s.ei, o := s.o, c := s.c } := by
  have hpp : Word.bit s.statusWord 8 = s.pp := s.statusWord_bit 8
  have hii : Word.bit s.statusWord 10 = s.ii := s.statusWord_bit 10
  have hei : Word.bit s.statusWord 11 = s.ei := s.statusWord_bit 11
  have ho : Word.bit s.statusWord 14 = s.o := s.statusWord_bit 14
  have hc : Word.bit s.statusWord 15 = s.c := s.statusWord_bit 15
  rw [State.loadStatus, hpp, hii, hei, ho, hc]

/-- Settles O41: the exit loads what the entry stored, and the level it leaves is the one that was entered. -/
theorem exitUndoesEntry : Obligations.ExitUndoesEntry := by
  intro s t level q hm hq h0 h1 hclaim hactive hpp hexit ht
  obtain ⟨hstatus, hp, hothers⟩ := State.enter_words hm hq h0 h1
  rw [hstatus, hp] at ht
  subst ht
  have hleave := State.leave_eq (s.enter level) s.statusWord s.p
  have hoperative : ((s.enter level).operative && s.pp) = s.pp := by
    cases hs : s.pp with
    | false => exact Bool.and_false _
    | true => exact (Bool.and_true _).trans (hpp hs)
  rw [State.loadStatus_statusWord, hoperative] at hleave
  refine ⟨?frame, fun addr ha hb => ?words, fun k => ?levels⟩
  case frame =>
    rw [hleave, State.enter_frame, hexit]
  case words =>
    rw [hleave]
    exact hothers addr ha hb
  case levels =>
    rw [State.leave_level, State.enter_highestActive hclaim, State.enter_level]
    simp only [Option.some.injEq, eq_comm (a := level)]
    split <;> rfl

/-! ### Counting -/

/-- Every dedicated location exists: the smallest memory holds them all. -/
theorem State.hasLocation_levelLocation (s : State) (level : Level) : s.hasLocation (levelLocation level) = true := by
  have hlt := level.isLt
  rw [State.hasLocation, levelLocation_toNat, decide_eq_true_iff, memWords]
  omega

/-- A signal on any level, installed or not. -/
theorem State.trigger_level (s : State) (level k : Level) : (s.trigger level).level k =
    if k = level ∧ installed s.cfg level = true ∧ (s.level k).state = .armed then { s.level k with state := .waiting }
    else s.level k := by
  by_cases h : installed s.cfg level = true
  · obtain ⟨-, hlevels⟩ := s.trigger_signalled level h
    rw [hlevels]
    simp only [h, true_and]
  · rw [State.trigger_uninstalled _ _ (by simpa using h), if_neg fun hk => h hk.2.1]

/-- The counter's word and level, before a result of zero signals. -/
def State.counted (s : State) (k : Fin 4) : State :=
  { (s.writeWord (levelLocation (counterLevel k)) (s.readWord (levelLocation (counterLevel k)) + 1)).setLevelState
      (counterLevel k) .armed with wff := false }

theorem State.count_eq (s : State) (k : Fin 4) : s.count k =
    if s.readWord (levelLocation (counterLevel k)) + 1 = 0 then (s.counted k).trigger (zeroLevel k) else s.counted k := rfl

theorem State.counted_frame (s : State) (k : Fin 4) : s.counted k = { s with
    mem := (s.writeWord (levelLocation (counterLevel k)) (s.readWord (levelLocation (counterLevel k)) + 1)).mem
    levels := (s.counted k).levels
    wff := false } := rfl

theorem State.counted_level (s : State) (k : Fin 4) (level : Level) : (s.counted k).level level =
    if level = counterLevel k then { s.level level with state := .armed } else s.level level :=
  State.setLevelState_level _ _ _ _

theorem zeroLevel_ne_counterLevel (k j : Fin 4) : zeroLevel k ≠ counterLevel j := by
  revert k j
  decide

/-- The levels after a counter is counted. -/
theorem State.count_level (s : State) (k : Fin 4) (level : Level) : (s.count k).level level =
    if level = counterLevel k then { s.level level with state := .armed }
    else if level = zeroLevel k ∧ s.readWord (levelLocation (counterLevel k)) = 0xFFFF#16 ∧
      installed s.cfg level = true ∧ (s.level level).state = .armed then { s.level level with state := .waiting }
    else s.level level := by
  have hzero : s.readWord (levelLocation (counterLevel k)) + 1 = 0 ↔
      s.readWord (levelLocation (counterLevel k)) = 0xFFFF#16 := by
    generalize s.readWord (levelLocation (counterLevel k)) = w
    constructor <;> intro h <;> bv_omega
  rw [State.count_eq]
  by_cases hlevel : level = counterLevel k
  case pos =>
    have hne : level ≠ zeroLevel k := fun h => zeroLevel_ne_counterLevel k k (h.symm.trans hlevel)
    rw [if_pos hlevel]
    split
    · rw [State.trigger_level, if_neg fun h => hne h.1, State.counted_level, if_pos hlevel]
    · rw [State.counted_level, if_pos hlevel]
  case neg =>
    have hcounted : (s.counted k).level level = s.level level := by rw [State.counted_level, if_neg hlevel]
    rw [if_neg hlevel]
    split
    case isTrue h =>
      rw [State.trigger_level, hcounted]
      refine if_congr ?_ rfl rfl
      constructor
      · rintro ⟨rfl, hi, ha⟩
        exact ⟨rfl, hzero.1 h, hi, ha⟩
      · rintro ⟨rfl, -, hi, ha⟩
        exact ⟨rfl, hi, ha⟩
    case isFalse h => rw [hcounted, if_neg fun hk => h (hzero.2 hk.2.1)]

/-- Counting changes one word, the levels and WFF. -/
theorem State.count_frame (s : State) (k : Fin 4) : s.count k = { s with
    mem := (s.writeWord (levelLocation (counterLevel k)) (s.readWord (levelLocation (counterLevel k)) + 1)).mem
    levels := (s.count k).levels
    wff := false } := by
  have hcounted := s.counted_frame k
  have hsignalled := ((s.counted k).trigger_frame (zeroLevel k)).trans
    (congrArg (fun u : State => { u with levels := ((s.counted k).trigger (zeroLevel k)).levels }) hcounted)
  rw [State.count_eq]
  split
  · exact hsignalled
  · exact hcounted

/-- Settles O42. -/
theorem countersCount : Obligations.CountersCount := by
  rintro s k cell hm rfl
  have hcanonical : s.mem.Canonical := ((Memory.wf_iff s.mem).1 hm).1
  have hread (addr : Word) : (s.count k).readWord addr =
      (s.writeWord (levelLocation (counterLevel k)) (s.readWord (levelLocation (counterLevel k)) + 1)).readWord addr := by
    rw [State.count_frame]
    rfl
  refine ⟨_, rfl, ?_, ?_, fun addr haddr => ?_, s.count_level k⟩
  · rw [State.count_frame]
  · rw [hread, State.readWord_writeWord _ _ _ _ hcanonical, if_pos ⟨rfl, s.hasLocation_levelLocation _⟩]
  · rw [hread, State.readWord_writeWord_ne _ _ haddr]

end Sys2Proof.Machine
end

section
/-! Recognition: the claimant, the counters in turn, the chain, inhibits and holds (60_exceptions.md R280 to R294). -/

namespace Sys2Proof.Machine

open Sys2Proof

/-! ### The claimant -/

/-- A level that is active or eligible, with none such before it on the chain, is the claimant. -/
theorem State.claimant_eq {s : State} {higher lower : List Level} {level : Level}
    (hchain : chain s.cfg = higher ++ level :: lower)
    (hhigher : ∀ k ∈ higher, (s.level k).state ≠ .active ∧ s.eligible k = false)
    (h : (s.level level).state = .active ∨ s.eligible level = true) : s.claimant = some level := by
  refine List.find?_eq_some_iff_append.2 ⟨by simpa using h, higher, lower, hchain, fun k hk => ?_⟩
  obtain ⟨hactive, heligible⟩ := hhigher k hk
  simp [hactive, heligible]

theorem State.claimant_eq_none {s : State}
    (h : ∀ k ∈ chain s.cfg, (s.level k).state ≠ .active ∧ s.eligible k = false) : s.claimant = none := by
  refine List.find?_eq_none.2 fun k hk => ?_
  obtain ⟨hactive, heligible⟩ := h k hk
  simp [hactive, heligible]

/-! ### One turn of the loop -/

theorem recognizeLoop_none {s : State} (fuel : Nat) (h : s.claimant = none) : recognizeLoop fuel s = s := by
  cases fuel with
  | zero => rfl
  | succ fuel => simp only [recognizeLoop, h]

theorem recognizeLoop_active {s : State} {level : Level} (fuel : Nat) (h : s.claimant = some level)
    (ha : (s.level level).state = .active) : recognizeLoop fuel s = s := by
  cases fuel with
  | zero => rfl
  | succ fuel => simp only [recognizeLoop, h, ha, if_true]

theorem recognizeLoop_enter {s : State} {level : Level} (fuel : Nat) (h : s.claimant = some level)
    (ha : (s.level level).state ≠ .active) (hc : isCounter level = false) :
    recognizeLoop (fuel + 1) s = s.enter level := by
  have hlt : ¬level.val < 4 := by simpa [isCounter] using hc
  simp only [recognizeLoop, h, if_neg ha, dif_neg hlt]

theorem recognizeLoop_count {s : State} {k : Fin 4} (fuel : Nat) (h : s.claimant = some (counterLevel k))
    (ha : (s.level (counterLevel k)).state ≠ .active) :
    recognizeLoop (fuel + 1) s = recognizeLoop fuel (s.count k) := by
  simp only [recognizeLoop, h, if_neg ha]
  exact dif_pos k.isLt

/-! ### The loop ends -/

/-- The counters that wait. -/
def State.waitingCounters (s : State) : Finset (Fin 4) :=
  Finset.univ.filter fun k => (s.level (counterLevel k)).state = .waiting

/-- A counted counter is armed, and no other counter changes. -/
theorem State.count_counterLevel (s : State) (k j : Fin 4) : (s.count k).level (counterLevel j) =
    if j = k then { s.level (counterLevel j) with state := .armed } else s.level (counterLevel j) := by
  have hinjective : counterLevel j = counterLevel k ↔ j = k := by
    rw [counterLevel, counterLevel, Fin.mk.injEq, Fin.val_inj]
  rw [State.count_level]
  simp only [hinjective]
  split
  · rfl
  · exact if_neg fun h => zeroLevel_ne_counterLevel k j h.1.symm

/-- Each turn that counts leaves one counter less waiting. -/
theorem State.waitingCounters_count {s : State} {k : Fin 4} (h : (s.level (counterLevel k)).state = .waiting) :
    (s.count k).waitingCounters.card < s.waitingCounters.card := by
  have hmem (u : State) (j : Fin 4) : j ∈ u.waitingCounters ↔ (u.level (counterLevel j)).state = .waiting := by
    simp [State.waitingCounters]
  refine Finset.card_lt_card ((Finset.ssubset_iff_of_subset fun j hj => ?_).2 ⟨k, (hmem s k).2 h, fun hk => ?_⟩)
  · rw [hmem, State.count_counterLevel] at hj
    split at hj
    · exact absurd hj nofun
    · exact (hmem s j).2 hj
  · rw [hmem, State.count_counterLevel, if_pos rfl] at hk
    exact absurd hk nofun

/-- With more turns than waiting counters, one turn more changes nothing. -/
theorem recognizeLoop_succ (fuel : Nat) (s : State) (h : s.waitingCounters.card < fuel) :
    recognizeLoop (fuel + 1) s = recognizeLoop fuel s := by
  induction fuel generalizing s with
  | zero => exact absurd h (Nat.not_lt_zero _)
  | succ fuel ih =>
    cases hclaim : s.claimant with
    | none => rw [recognizeLoop_none _ hclaim, recognizeLoop_none _ hclaim]
    | some level =>
      obtain ⟨-, hclaims, -⟩ := State.claimant_some hclaim
      by_cases ha : (s.level level).state = .active
      case pos => rw [recognizeLoop_active _ hclaim ha, recognizeLoop_active _ hclaim ha]
      case neg =>
        cases hc : isCounter level with
        | false => rw [recognizeLoop_enter _ hclaim ha hc, recognizeLoop_enter _ hclaim ha hc]
        | true =>
          obtain ⟨k, rfl⟩ := isCounter_iff.1 hc
          have hwaiting := State.eligible_waiting (hclaims.resolve_left ha)
          rw [recognizeLoop_count _ hclaim ha, recognizeLoop_count _ hclaim ha]
          exact ih _ (by have := State.waitingCounters_count hwaiting; omega)

theorem State.recognize_eq {s : State} (hx : s.exitCondition = false) (hh : s.hold = false) :
    s.recognize = recognizeLoop 5 s := by
  rw [State.recognize, hx, hh]
  rfl

/-- Counting leaves the exit condition and the hold. -/
theorem State.count_holds (s : State) (k : Fin 4) :
    (s.count k).exitCondition = s.exitCondition ∧ (s.count k).hold = s.hold := by
  rw [State.count_frame]
  exact ⟨rfl, rfl⟩

/-- Recognition with a counter as its claimant. -/
theorem State.recognize_count {s : State} {k : Fin 4} (hx : s.exitCondition = false) (hh : s.hold = false)
    (hclaim : s.claimant = some (counterLevel k)) (he : s.eligible (counterLevel k) = true) :
    s.recognize = (s.count k).recognize := by
  obtain ⟨hx1, hh1⟩ := s.count_holds k
  have hwaiting := State.eligible_waiting he
  have hfewer := State.waitingCounters_count hwaiting
  have hfour : s.waitingCounters.card ≤ 4 := Finset.card_le_univ _
  rw [State.recognize_eq hx hh, State.recognize_eq (hx1.trans hx) (hh1.trans hh),
    recognizeLoop_count _ hclaim (by rw [hwaiting]; nofun), recognizeLoop_succ 4 _ (by omega)]

/-! ### The chain by locations -/

theorem levelLocation_injective {level k : Level} (h : levelLocation level = levelLocation k) : level = k := by
  have hnat := congrArg BitVec.toNat h
  rw [levelLocation_toNat, levelLocation_toNat] at hnat
  exact Fin.ext (by omega)

/-- The locations of a group that `GroupOrder` places. -/
theorem groupLevels_locations (group : Group) : (groupLevels group).map levelLocation =
    match group with
    | .io => (List.range 10).map fun i => BitVec.ofNat 16 (0x106 + i)
    | .ext g => (List.range 16).map fun i => BitVec.ofNat 16 (0x110 + 16 * g.val + i) := by
  cases group with
  | io => rfl
  | ext g =>
    revert g
    decide

/-- A level is installed if the level of its location is. -/
theorem any_location_installed (cfg : Config) (level : Level) :
    ((List.finRange 148).any fun k => levelLocation k == levelLocation level && installed cfg k) = installed cfg level := by
  rw [Bool.eq_iff_iff, List.any_eq_true]
  constructor
  · rintro ⟨k, -, hk⟩
    rw [Bool.and_eq_true, beq_iff_eq] at hk
    exact levelLocation_injective hk.1 ▸ hk.2
  · intro h
    exact ⟨level, List.mem_finRange level, by simp [h]⟩

theorem chain_locations (cfg : Config) : (chain cfg).map levelLocation =
    ([0x100#16, 0x101#16, 0xFC#16, 0xFD#16, 0xFE#16, 0xFF#16, 0x102#16, 0x103#16, 0x104#16, 0x105#16] ++
      cfg.groupOrder.flatMap fun
        | .io => (List.range 10).map fun i => BitVec.ofNat 16 (0x106 + i)
        | .ext g => (List.range 16).map fun i => BitVec.ofNat 16 (0x110 + 16 * g.val + i)).filter fun loc =>
      (List.finRange 148).any fun level => levelLocation level == loc && installed cfg level := by
  have hgroups : (cfg.groupOrder.flatMap groupLevels).map levelLocation = cfg.groupOrder.flatMap fun
      | .io => (List.range 10).map fun i => BitVec.ofNat 16 (0x106 + i)
      | .ext g => (List.range 16).map fun i => BitVec.ofNat 16 (0x110 + 16 * g.val + i) := by
    rw [List.map_flatMap]
    exact congrArg (fun f => List.flatMap f cfg.groupOrder) (funext groupLevels_locations)
  rw [chain, ← hgroups, show ([0x100#16, 0x101#16, 0xFC#16, 0xFD#16, 0xFE#16, 0xFF#16, 0x102#16, 0x103#16, 0x104#16,
    0x105#16] : List Word) = [(4 : Level), 5, 0, 1, 2, 3, 6, 7, 8, 9].map levelLocation from rfl, ← List.map_append,
    List.filter_map]
  exact congrArg _ (List.filter_congr fun level _ => (any_location_installed cfg level).symm)

/-- Settles O43: the claimant decides the turn. -/
theorem recognitionServesTheHighestLevel : Obligations.RecognitionServesTheHighestLevel := by
  refine ⟨fun s higher lower level hx hh hchain hhigher => ?claimant, fun s h => ?none, chain_locations⟩
  case claimant =>
    have hclaim := State.claimant_eq hchain hhigher
    refine ⟨fun ha => ?active, fun he hc => ?enter, fun k hk he => ?count⟩
    case active => rw [State.recognize_eq hx hh, recognizeLoop_active _ (hclaim (.inl ha)) ha]
    case enter =>
      have hwaiting := State.eligible_waiting he
      rw [State.recognize_eq hx hh, recognizeLoop_enter _ (hclaim (.inr he)) (by rw [hwaiting]; nofun) hc]
    case count =>
      subst hk
      exact State.recognize_count hx hh (hclaim (.inr he)) he
  case none =>
    rw [State.recognize]
    split
    · rfl
    · exact recognizeLoop_none _ (State.claimant_eq_none h)

/-! ### Inhibits and holds -/

/-- The held I/O signal changes nothing but the levels. -/
theorem State.ioSignal_frame (s : State) : s.ioSignal = { s with levels := s.ioSignal.levels } := by
  unfold State.ioSignal
  split
  · exact s.trigger_frame ioLevel
  · rfl

/-- A step without events is one pass. -/
theorem step_pass {s : State} (h : s.env = []) : step s = { s with parityFaults := [] }.pass := by
  simp only [step, State.cycle, h]

/-- A pass of a machine that runs, after the held I/O signal. -/
theorem State.pass_running {s : State} (hdio : s.dio = none) (hrun : s.running = true) (hhalt : s.parityHalt = false) :
    s.pass = if s.ioSignal.recognitionPoint.wff then .next s.ioSignal.recognitionPoint
      else s.ioSignal.recognitionPoint.instructionStep := by
  have hsignal := s.ioSignal_frame
  have hdio1 : s.ioSignal.dio = none := (congrArg State.dio hsignal).trans hdio
  have hrun1 : s.ioSignal.running = true := (congrArg State.running hsignal).trans hrun
  have hhalt1 : s.ioSignal.parityHalt = false := (congrArg State.parityHalt hsignal).trans hhalt
  simp only [State.pass, hdio1, hrun1, hhalt1, Bool.not_true, Bool.or_self, Bool.false_eq_true, if_false]

/-- Settles O44. -/
theorem inhibitsAndHolds : Obligations.InhibitsAndHolds := by
  intro s level
  refine ⟨fun h => ?io, fun h => ?ext, fun h => ?others, fun henv hdio hrun hhalt hwff hheld => ?held⟩
  case io =>
    have hext : isExternal level = false := by
      simp only [isIoGroup, isExternal, Bool.and_eq_true, decide_eq_true_eq, decide_eq_false_iff_not] at h ⊢
      omega
    rw [Bool.eq_iff_iff]
    simp [State.eligible, State.inhibited, h, hext, and_assoc]
  case ext =>
    have hio : isIoGroup level = false := by
      simp only [isIoGroup, isExternal, Bool.and_eq_false_iff, decide_eq_true_eq, decide_eq_false_iff_not] at h ⊢
      omega
    rw [Bool.eq_iff_iff]
    simp [State.eligible, State.inhibited, h, hio, and_assoc]
  case others =>
    have hlow : isIoGroup level = false ∧ isExternal level = false := by
      simp only [isCounter, isOverride, isIoGroup, isExternal, Bool.and_eq_true, Bool.and_eq_false_iff, decide_eq_true_eq,
        decide_eq_false_iff_not] at h ⊢
      omega
    rw [Bool.eq_iff_iff]
    simp [State.eligible, State.inhibited, hlow]
  case held =>
    have hsignal := State.ioSignal_frame { s with parityFaults := [] }
    have hpoint : { s with parityFaults := [] }.ioSignal.recognitionPoint = { s with parityFaults := [] }.ioSignal := by
      have hheld : { s with parityFaults := [] }.ioSignal.exitCondition = true ∨
          { s with parityFaults := [] }.ioSignal.hold = true := by
        rw [hsignal]
        exact hheld
      rw [State.recognitionPoint, State.recognize_suspended hheld, ite_self]
    have hwff1 : { s with parityFaults := [] }.ioSignal.wff = false := (State.ioSignal_wff _).trans hwff
    rw [step_pass henv, State.pass_running (s := { s with parityFaults := [] }) hdio hrun hhalt, hpoint, hwff1]
    rfl

end Sys2Proof.Machine
end

section
/-! The passes that execute no instruction: held on the connector, waiting, stopped, without power; and the signals of a
boundary (60_exceptions.md R277, R281, R286, R293, R313, R321, R324). -/

namespace Sys2Proof.Machine

open Sys2Proof

/-! ### Held on the connector -/

/-- The held I/O signal, given twice, is given once. -/
theorem State.ioSignal_ioSignal (s : State) : s.ioSignal.ioSignal = s.ioSignal := by
  have htrigger : (s.trigger ioLevel).trigger ioLevel = s.trigger ioLevel := by
    have hstate : ((s.trigger ioLevel).level ioLevel).state ≠ .armed := by
      rw [State.trigger_level]
      split
      case isTrue => nofun
      case isFalse h => exact fun ha => h ⟨rfl, rfl, ha⟩
    rw [State.trigger.eq_1 (s.trigger ioLevel), if_neg (by simp [hstate])]
  unfold State.ioSignal
  split
  case isTrue h =>
    have hdevices : (s.trigger ioLevel).devices = s.devices := s.trigger_devices ioLevel
    rw [hdevices, if_pos h, htrigger]
  case isFalse => rfl

/-- The held I/O signal depends on the configuration, the devices and the levels alone. -/
theorem State.ioSignal_levels_congr {s u : State} (hc : u.cfg = s.cfg) (hd : u.devices = s.devices)
    (hl : u.levels = s.levels) : u.ioSignal.levels = s.ioSignal.levels := by
  have hset : (u.setLevelState ioLevel .waiting).levels = (s.setLevelState ioLevel .waiting).levels := by
    simp only [State.setLevelState, State.setLevel, State.level, hl]
  have htrigger : (u.trigger ioLevel).levels = (s.trigger ioLevel).levels := by
    have hlevel : u.level ioLevel = s.level ioLevel := by simp only [State.level, hl]
    rw [State.trigger, State.trigger, hc, hlevel]
    split
    · exact hset
    · exact hl
  rw [State.ioSignal, State.ioSignal, hd]
  split
  · exact htrigger
  · exact hl

/-- What the held I/O signal leaves as it was, among what a pass looks at. -/
theorem State.ioSignal_keeps (s : State) : s.ioSignal.dio = s.dio ∧ s.ioSignal.dioReplies = s.dioReplies ∧
    s.ioSignal.a = s.a ∧ s.ioSignal.running = s.running := by
  rw [s.ioSignal_frame]
  exact ⟨rfl, rfl, rfl, rfl⟩

theorem State.acceptReply_eq (s : State) (cmd : DioCommand) (r : DioReply) : s.acceptReply cmd r =
    { s with a := if cmd.isWrite then s.a else r.data, o := r.o, c := r.c } := by
  unfold State.acceptReply
  split <;> rfl

/-- While COMPUTE acts as RUN, the end of a held instruction is the end of any instruction. -/
theorem State.endHold_completed {s : State} (h : s.running = true) : { s with dio := none }.completed s.endHold := by
  have hidle : { s with dio := none }.finish.idle = false := by
    rw [(State.keeps_finish { s with dio := none }).idle]
    exact State.not_idle_of_running h
  have hend : s.endHold = { s with dio := none }.finish := by
    unfold State.endHold
    dsimp only
    rw [hidle]
    rfl
  rw [hend]
  exact State.finish_completed _

/-- A pass of a machine held on the connector. -/
theorem State.pass_held {s : State} {cmd : DioCommand} (h : s.dio = some cmd) :
    s.pass = .next (s.ioSignal.awaitReply cmd) := by
  have hdio : s.ioSignal.dio = some cmd := (congrArg State.dio s.ioSignal_frame).trans h
  simp only [State.pass, hdio]

/-- The acknowledgment of a held command, when the held I/O signal has been applied. -/
theorem State.pass_reply {u : State} {cmd : DioCommand} (r : DioReply) (hdio : u.dio = some cmd) (hreplies : u.dioReplies = [])
    (hline : u.ioSignal = u) :
    { u with dioReplies := u.dioReplies ++ [r] }.pass = .next (u.acceptReply cmd r).endHold := by
  have hlevels : { u with dioReplies := [r] }.ioSignal.levels = u.levels :=
    (State.ioSignal_levels_congr (s := u) (u := { u with dioReplies := [r] }) rfl rfl rfl).trans (congrArg State.levels hline)
  have hline1 : { u with dioReplies := [r] }.ioSignal = { u with dioReplies := [r] } := by
    rw [State.ioSignal_frame, hlevels]
  have hnone : { u with dioReplies := [] } = u := by rw [← hreplies]
  rw [hreplies, List.nil_append, State.pass_held (s := { u with dioReplies := [r] }) hdio, hline1]
  simp only [State.awaitReply, hnone]

/-- Settles O29. -/
theorem heldDirectIoWaitsForAcknowledgment : Obligations.HeldDirectIoWaitsForAcknowledgment := by
  intro s cmd hdio hreplies hrun
  refine ⟨fun henv => ?waits, fun r rest henv => ?reply, fun hw => ?timeout, fun hn => ?none⟩
  case waits =>
    obtain ⟨-, hnone, -⟩ := State.ioSignal_keeps { s with parityFaults := [] }
    have hwait : { s with parityFaults := [] }.ioSignal.awaitReply cmd = { s with parityFaults := [] }.ioSignal := by
      rw [State.awaitReply, hnone.trans hreplies]
    rw [step_pass henv, State.pass_held (s := { s with parityFaults := [] }) hdio, hwait]
    exact ⟨_, rfl, State.ioSignal_applied _⟩
  case reply =>
    have happlied := State.ioSignal_applied { s with parityFaults := [], env := rest }
    have hline := State.ioSignal_ioSignal { s with parityFaults := [], env := rest }
    obtain ⟨hdio1, hreplies1, ha, hrun1⟩ := State.ioSignal_keeps { s with parityFaults := [], env := rest }
    have hstep : step s = { { s with parityFaults := [], env := rest }.ioSignal with
        dioReplies := { s with parityFaults := [], env := rest }.ioSignal.dioReplies ++ [r] }.pass := by
      simp only [step, State.cycle, henv, State.applyAll, State.apply]
    generalize { s with parityFaults := [], env := rest }.ioSignal = u at happlied hline hdio1 hreplies1 ha hrun1 hstep
    rw [State.pass_reply r (hdio1.trans hdio) (hreplies1.trans hreplies) hline, State.acceptReply_eq, ha] at hstep
    exact ⟨u, _, hstep, happlied, State.endHold_completed
      (s := { u with a := if cmd.isWrite then s.a else r.data, o := r.o, c := r.c }) (hrun1.trans hrun)⟩
  case timeout =>
    have htimeout : s.timeoutDio = s.abortDio cmd := by simp only [State.timeoutDio, hdio, hw, if_true]
    exact ⟨_, congrArg Host.Outcome.next htimeout, State.endHold_completed (s := { s with
      a := if cmd.isWrite then s.a else freeWord s.free
      o := freeBit s.free
      c := freeBit (s.free + 1)
      free := s.free + 2 }) hrun⟩
  case none =>
    have htimeout : s.timeoutDio = s := by simp [State.timeoutDio, hdio, hn]
    exact congrArg Host.Outcome.next htimeout

/-! ### Signals -/

/-- Settles O39. -/
theorem signalsAreRemembered : Obligations.SignalsAreRemembered := by
  intro s k level
  refine ⟨?panel, fun hc => ?clock, fun hp => ⟨fun hpowered => ?powerOn, ?powerOff⟩,
    fun ht hi => ⟨?external, fun he hl => ?hangup⟩, fun he hl => ?unwired, fun he => ?off⟩
  case panel => exact ⟨_, rfl, s.trigger_signalled panelLevel rfl⟩
  case clock =>
    have hinstalled : installed s.cfg (counterLevel k) = true := by
      rw [installed, if_pos (isCounter_iff.2 ⟨k, rfl⟩), hc]
    exact ⟨_, rfl, s.trigger_signalled _ hinstalled⟩
  case powerOn =>
    have hreturn : s.returnPower = s.trigger powerOnLevel := if_pos hpowered
    exact ⟨_, congrArg Host.Outcome.next hreturn, s.trigger_signalled _ hp⟩
  case powerOff => exact ⟨_, rfl, s.trigger_signalled _ hp⟩
  case external => exact ⟨_, congrArg Host.Outcome.next (if_pos ht), s.trigger_signalled level hi⟩
  case hangup =>
    have htimeout : s.timeoutWatchdog = { s with wdHangup := true }.trigger level := by
      rw [State.timeoutWatchdog, if_pos he, hl]
      exact if_pos ht
    exact ⟨_, congrArg Host.Outcome.next htimeout, State.trigger_signalled _ level hi⟩
  case unwired =>
    have htimeout : s.timeoutWatchdog = { s with wdHangup := true } := by
      rw [State.timeoutWatchdog, if_pos he, hl]
      rfl
    exact congrArg Host.Outcome.next htimeout
  case off => exact congrArg Host.Outcome.next (if_neg (by simp [he]))

/-! ### Waiting, stopped, without power -/

/-- Without a claimant recognition does nothing. -/
theorem State.recognize_idle {s : State} (h : s.claimant = none) : s.recognize = s := by
  rw [State.recognize]
  split
  · rfl
  · exact recognizeLoop_none _ h

/-- After a loss of power nothing runs and nothing is held; memory and devices are kept. -/
theorem State.changePower_lost {s s1 : State} (h : s.powered = true) (h1 : s1.powered = false) (hm : s1.mem = s.mem)
    (hd : s1.devices = s.devices) : (s.changePower s1).running = false ∧ (s.changePower s1).idle = false ∧
      (s.changePower s1).dio = none ∧ (s.changePower s1).mem = s.mem ∧ (s.changePower s1).devices = s.devices := by
  have hlost : s.changePower s1 = { s1 with dio := none } := by simp [State.changePower, h, h1]
  have hpowered : { s1 with dio := none }.powered = false := h1
  rw [hlost]
  refine ⟨?_, ?_, rfl, hm, hd⟩
  · rw [State.running, hpowered, Bool.false_and, Bool.false_and]
  · rw [State.idle, hpowered, Bool.false_and]

/-- After a return of power the power on level, if installed, has its signal. -/
theorem State.changePower_returned {s s1 : State} (h : s.powered = false) (h1 : s1.powered = true) (hm : s1.mem = s.mem)
    (hd : s1.devices = s.devices) (hc : s1.cfg = s.cfg) : (s.changePower s1).powered = true ∧ (s.changePower s1).mem = s.mem ∧
      (s.changePower s1).devices = s.devices ∧ (s.changePower s1).cfg = s.cfg ∧
      (s.cfg.hasPowerFailSafe = true → ((s.changePower s1).level powerOnLevel).state ≠ .armed) := by
  obtain ⟨hmem, hdevices, hpanel, hsupply, hcfg⟩ := s.changePower_keeps s1
  refine ⟨?_, hmem.trans hm, hdevices.trans hd, hcfg.trans hc, fun hp => ?_⟩
  · rw [State.powered, hpanel, hsupply]
    exact h1
  · have hreturn : s.changePower s1 = s1.powerUp.trigger powerOnLevel := by simp [State.changePower, h, h1]
    have hinstalled : installed s1.powerUp.cfg powerOnLevel = true := (congrArg Config.hasPowerFailSafe hc).trans hp
    rw [hreturn, State.trigger_level]
    split
    case isTrue => nofun
    case isFalse hn => exact fun ha => hn ⟨rfl, hinstalled, ha⟩

/-- Settles O57. -/
theorem waitExecutesNothing : Obligations.WaitExecutesNothing := by
  refine ⟨fun s henv hdio hrun hhalt hwff hclaim => ?waits, fun s henv hdio hrun => ?stopped, fun s hp => ⟨?lost, ?switched⟩,
    fun s event hp hevent => ?returned⟩
  case waits =>
    have hframe := State.ioSignal_frame { s with parityFaults := [] }
    have hlevels : { s with parityFaults := [] }.ioSignal.levels = s.ioSignal.levels :=
      State.ioSignal_levels_congr (s := s) (u := { s with parityFaults := [] }) rfl rfl rfl
    have hpoint : { s with parityFaults := [] }.ioSignal.recognitionPoint = { s with parityFaults := [] }.ioSignal := by
      rw [State.recognitionPoint, State.recognize_idle, ite_self]
      rw [hframe, hlevels]
      rw [s.ioSignal_frame] at hclaim
      exact hclaim
    have hwff1 : { s with parityFaults := [] }.ioSignal.wff = true := (State.ioSignal_wff _).trans hwff
    rw [step_pass henv, State.pass_running (s := { s with parityFaults := [] }) hdio hrun hhalt, hpoint, hwff1]
    exact ⟨_, rfl, State.ioSignal_applied _⟩
  case stopped =>
    obtain ⟨hdio1, -, -, hrun1⟩ := State.ioSignal_keeps { s with parityFaults := [] }
    have hpass : { s with parityFaults := [] }.pass = .next { s with parityFaults := [] }.ioSignal := by
      simp only [State.pass, hdio1.trans hdio, hrun1.trans hrun]
      rfl
    exact ⟨_, (step_pass henv).trans hpass, State.ioSignal_applied _⟩
  case lost => exact ⟨_, rfl, State.changePower_lost hp (Bool.and_false _) rfl rfl⟩
  case switched => exact ⟨_, rfl, State.changePower_lost hp (Bool.false_and _) rfl rfl⟩
  case returned =>
    obtain ⟨rfl, hswitch⟩ | ⟨rfl, hsupply⟩ := hevent
    · have hreturn : s.returnPower = s.changePower { s with supply := true } := if_neg (by simp [hp])
      exact ⟨_, congrArg Host.Outcome.next hreturn,
        State.changePower_returned hp (by simp [State.powered, hswitch]) rfl rfl rfl⟩
    · exact ⟨_, rfl, State.changePower_returned hp (by simp [State.powered, hsupply]) rfl rfl rfl⟩

end Sys2Proof.Machine
end

section
/-! Memory parity errors (60_exceptions.md R312; 20_memory.md R63, R66). -/

namespace Sys2Proof.Machine

open Sys2Proof

/-! ### Reads that meet a parity error -/

theorem State.checkedRead_of_error {s : State} {addr : Word} (h : s.parityError addr = true) (hs : s.parityStops = true) :
    s.checkedRead addr = .error addr := by
  simp [State.checkedRead, h, hs]

theorem State.checkedRead_of_no_error {s : State} {addr : Word} (h : s.parityError addr = false) :
    s.checkedRead addr = .ok (s.readWord addr) := by
  simp [State.checkedRead, h]

theorem State.parityStops_halt {s : State} (h : s.parityMode = .halt) : s.parityStops = true := by
  rw [State.parityStops, h]

theorem State.parityStops_interrupt {s : State} (h : s.parityMode = .interrupt)
    (hl : s.cfg.hasMemParityInt = true → (s.level memoryParityLevel).state ≠ .active) : s.parityStops = true := by
  rw [State.parityStops, h]
  cases ho : s.cfg.hasMemParityInt with
  | false => rfl
  | true => simp [hl ho]

theorem State.not_parityStops {s : State} (h : s.parityMode = .ignore ∨
    s.parityMode = .interrupt ∧ s.cfg.hasMemParityInt = true ∧ (s.level memoryParityLevel).state = .active) :
    s.parityStops = false := by
  obtain hignore | ⟨hinterrupt, hoption, hactive⟩ := h
  · rw [State.parityStops, hignore]
  · simp [State.parityStops, hinterrupt, hoption, hactive]

/-! ### The abort in each position of the switches -/

theorem State.parityAbort_halt {s : State} (h : s.parityMode = .halt) (addr : Word) : s.parityAbort addr =
    { s with p := s.regH, parityHalt := true, parityIndicator := true, parityAddress := addr } := by
  rw [State.parityAbort, h]

theorem State.parityAbort_interrupt {s : State} (h : s.parityMode = .interrupt) (addr : Word) :
    s.parityAbort addr = { s with p := s.regH, wff := true }.trigger memoryParityLevel := by
  rw [State.parityAbort, h]

theorem State.parityAbort_signals {s : State} (h : s.parityMode = .interrupt) (ho : s.cfg.hasMemParityInt = true)
    (addr : Word) : { s with p := s.regH, wff := true }.signalled memoryParityLevel (s.parityAbort addr) := by
  rw [State.parityAbort_interrupt h]
  exact State.trigger_signalled _ _ ho

theorem State.parityAbort_waits {s : State} (h : s.parityMode = .interrupt) (ho : s.cfg.hasMemParityInt = false)
    (addr : Word) : s.parityAbort addr = { s with p := s.regH, wff := true } := by
  rw [State.parityAbort_interrupt h]
  exact State.trigger_uninstalled _ _ ho

/-! ### Instructions that meet a parity error -/

/-- A parity error on the indirect read aborts every instruction of the memory-reference format. -/
theorem exec_indirect_error {i : Instr} {m : MemRef} {s : State} {bad : Word} (hm : memRefOf i = some m)
    (h : s.effectiveAddress m = .error bad) : exec i s = .next (s.parityAbort bad) := by
  cases i with
  | wd k | rd k | shift k | mul k | b k | div k | lda k | and k | add k | sub k | cp k | sta k | im k | ldxExitForm k =>
    obtain rfl : k = m := Option.some.inj hm
    exact State.withEffectiveAddress_error _ h
  | ldx k =>
    obtain rfl : k = m := Option.some.inj hm
    rw [exec_ldx_eq]
    split
    · exact State.withEffectiveAddress_error _ h
    · exact State.withEffectiveAddress_error _ h
  | _ => exact absurd hm nofun

/-- An operand that cannot be read aborts the instruction. -/
theorem State.withEffectiveAddress_parity {s : State} {m : MemRef} {ea bad : Word} {check : Word → Check}
    {effect : Word → State → Effect} (he : s.effectiveAddress m = .ok ea) (ha : s.admits (check ea) = true)
    (hd : effect ea s.followProgram = .parity bad) :
    s.withEffectiveAddress m (fun addr => s.perform (check addr) (effect addr)) = .next (s.parityAbort bad) := by
  rw [State.withEffectiveAddress_ok _ he]
  exact State.perform_parity ha hd

theorem State.withEffectiveWord_parity {s : State} {m : MemRef} {ea : Word} (he : s.effectiveAddress m = .ok ea)
    (ha : s.admits .plain = true) (hr : s.checkedRead ea = .error ea) (effect : State → Word → State) :
    s.withEffectiveWord m effect = .next (s.parityAbort ea) :=
  State.withEffectiveAddress_parity (check := fun _ => .plain) he ha
    (State.withOperand_error (s := s.followProgram) _ hr)

theorem exec_ldxExitForm_first_error {s : State} {m : MemRef} {ea : Word} (he : s.effectiveAddress m = .ok ea)
    (ha : s.admits .plain = true) (hr : s.checkedRead ea = .error ea) :
    exec (.ldxExitForm m) s = .next (s.parityAbort ea) :=
  State.withEffectiveAddress_parity (check := fun _ => .plain) he ha
    (State.withOperand_error (s := s.followProgram) _ hr)

theorem exec_ldxExitForm_second_error {s : State} {m : MemRef} {ea w : Word} (he : s.effectiveAddress m = .ok ea)
    (ha : s.admits .plain = true) (hw : s.checkedRead ea = .ok w) (hr : s.checkedRead (ea + 1) = .error (ea + 1)) :
    exec (.ldxExitForm m) s = .next (s.parityAbort (ea + 1)) :=
  State.withEffectiveAddress_parity (check := fun _ => .plain) he ha
    ((State.followProgram_withOperand hw _).trans (State.withOperand_error (s := s.followProgram) _ hr))

/-- An instruction that reads its effective word, when this cannot be read. -/
theorem exec_operand_error {i : Instr} {m : MemRef} {s : State} {ea : Word} (he : s.effectiveAddress m = .ok ea)
    (ha : s.admits .plain = true) (hr : s.checkedRead ea = .error ea)
    (hi : i ∈ [Instr.lda m, .and m, .add m, .sub m, .cp m, .ldx m, .ldxExitForm m]) :
    exec i s = .next (s.parityAbort ea) := by
  simp only [List.mem_cons, List.not_mem_nil, or_false] at hi
  obtain rfl | rfl | rfl | rfl | rfl | rfl | rfl := hi
  case inr.inr.inr.inr.inr.inl =>
    rw [exec_ldx_eq]
    split
    · exact exec_ldxExitForm_first_error he ha hr
    · exact State.withEffectiveWord_parity he ha hr _
  case inr.inr.inr.inr.inr.inr => exact exec_ldxExitForm_first_error he ha hr
  all_goals exact State.withEffectiveWord_parity he ha hr _

/-- MUL and DIV with the option. -/
theorem exec_mulDiv_error {i : Instr} {m : MemRef} {s : State} {ea : Word} (he : s.effectiveAddress m = .ok ea)
    (ha : s.admits .plain = true) (hr : s.checkedRead ea = .error ea) (ho : s.cfg.hasMulDiv = true)
    (hi : i ∈ [Instr.mul m, .div m]) : exec i s = .next (s.parityAbort ea) := by
  simp only [List.mem_cons, List.not_mem_nil, or_false] at hi
  obtain rfl | rfl := hi <;>
    exact State.withEffectiveAddress_parity (check := fun _ => .plain) he ha
      ((if_pos ho).trans (State.withOperand_error (s := s.followProgram) _ hr))

theorem exec_im_error {m : MemRef} {s : State} {ea : Word} (he : s.effectiveAddress m = .ok ea)
    (ha : s.admits (.store ea) = true) (hr : s.checkedRead ea = .error ea) :
    exec (.im m) s = .next (s.parityAbort ea) :=
  State.withEffectiveAddress_parity (check := .store) he ha (State.withOperand_error (s := s.followProgram) _ hr)

/-! ### Recognition before the fetch -/

/-- What recognition may change. -/
theorem State.recognize_frame (s : State) : s.recognize = { s with
    mem := s.recognize.mem
    levels := s.recognize.levels
    p := s.recognize.p
    wff := s.recognize.wff
    hold := s.recognize.hold } := by
  refine State.recognize_keeps (fun u => u = { s with
    mem := u.mem, levels := u.levels, p := u.p, wff := u.wff, hold := u.hold }) ?count ?enter s rfl
  case count =>
    intro u k hu _
    rw [State.count_frame]
    exact (congrArg (fun v : State => { v with
      mem := (u.writeWord (levelLocation (counterLevel k)) (u.readWord (levelLocation (counterLevel k)) + 1)).mem
      levels := (u.count k).levels
      wff := false }) hu).trans rfl
  case enter =>
    intro u level hu _ _ _
    rw [State.enter_frame]
    exact (congrArg (fun v : State => { v with
      mem := (u.enter level).mem
      levels := (u.enter level).levels
      wff := false
      p := u.readWord (levelLocation level) + 2
      hold := true }) hu).trans rfl

/-- A step without events up to the recognition `r` before a fetch. -/
theorem step_instruction {s r : State} (henv : s.env = []) (hdio : s.dio = none) (hrun : s.running = true)
    (hhalt : s.parityHalt = false) (hstarted : s.started = false)
    (hr : r = ({ s with parityFaults := [] }.ioSignal).recognize) (hwff : r.wff = false) :
    step s = r.instructionStep ∧ r.dio = none ∧ r.started = false ∧ r.panel = s.panel := by
  have hpass := State.pass_running (s := { s with parityFaults := [] }) hdio hrun hhalt
  obtain ⟨hdio1, -⟩ := State.ioSignal_keeps { s with parityFaults := [] }
  have hstarted1 : { s with parityFaults := [] }.ioSignal.started = false := by
    rw [State.ioSignal_frame]
    exact hstarted
  rw [step_pass henv, hpass]
  have hpanel1 : { s with parityFaults := [] }.ioSignal.panel = s.panel := by rw [State.ioSignal_frame]
  generalize { s with parityFaults := [] }.ioSignal = u at hr hdio1 hstarted1 hpanel1
  have hpoint : u.recognitionPoint = r := by rw [State.recognitionPoint, hstarted1, hr]; rfl
  rw [hpoint, hwff, hr]
  refine ⟨rfl, ?_, ?_, ?_⟩
  · rw [u.recognize_frame]
    exact hdio1.trans hdio
  · rw [u.recognize_frame]
    exact hstarted1
  · rw [u.recognize_frame]
    exact hpanel1

/-- A fetch that meets a parity error. -/
theorem State.instructionStep_error {r : State} (hdio : r.dio = none) (hstarted : r.started = false)
    (he : r.parityError r.p = true) (hs : r.parityStops = true) :
    r.instructionStep = .next ({ r with regH := r.p }.parityAbort r.p).finish := by
  have hcomplete : ({ r with regH := r.p }.parityAbort r.p).complete = ({ r with regH := r.p }.parityAbort r.p).finish := by
    rw [State.complete, State.parityAbort_dio, hdio]
    rfl
  have hfetch : r.fetch = .error ({ r with regH := r.p }.parityAbort r.p) := by
    rw [State.fetch, if_neg (by simp [hstarted]), State.checkedRead_of_error he hs]
  rw [State.instructionStep, hfetch]
  exact congrArg Host.Outcome.next hcomplete

/-- Settles O50: the read that fails is found by the form of the instruction, the switches then decide. -/
theorem parityErrorsAbort : Obligations.ParityErrorsAbort := by
  refine ⟨fun i m s ea bad hm herror hcases => ?instruction,
    fun s r henv hdio hrun hhalt hstarted hr hwff hlocation => ?fetch, fun s addr h => ?ignored⟩
  case instruction =>
    have habort (hs : s.parityStops = true) : exec i s = .next (s.parityAbort bad) := by
      have hread := State.checkedRead_of_error herror hs
      obtain hindirect | ⟨he, ha, rfl, hi⟩ | ⟨he, ha, rfl, hfirst, hi⟩ | ⟨he, ha, rfl, ho, hi⟩ | ⟨he, ha, rfl, rfl⟩ := hcases
      · exact exec_indirect_error hm hindirect
      · exact exec_operand_error he ha hread hi
      · have hsecond := exec_ldxExitForm_second_error he ha (State.checkedRead_of_no_error hfirst) hread
        obtain ⟨rfl, hexit⟩ | rfl := hi
        · rw [exec_ldx_eq, if_pos hexit]
          exact hsecond
        · exact hsecond
      · exact exec_mulDiv_error he ha hread ho hi
      · exact exec_im_error he ha hread
    refine ⟨fun hmode => ?_, fun hmode ho hl => ?_, fun hmode ho => ?_⟩
    · rw [habort (State.parityStops_halt hmode), State.parityAbort_halt hmode]
    · exact ⟨_, habort (State.parityStops_interrupt hmode fun _ => hl), State.parityAbort_signals hmode ho bad⟩
    · rw [habort (State.parityStops_interrupt hmode fun h => absurd (ho.symm.trans h) nofun),
        State.parityAbort_waits hmode ho]
  case fetch =>
    obtain ⟨hstep, hdio1, hstarted1, -⟩ := step_instruction henv hdio hrun hhalt hstarted hr hwff
    have herror : r.parityError r.p = true := by simp [State.parityError, hlocation]
    have habort (hs : r.parityStops = true) : step s = .next ({ r with regH := r.p }.parityAbort r.p).finish :=
      hstep.trans (State.instructionStep_error hdio1 hstarted1 herror hs)
    refine ⟨fun hmode => ?_, fun hmode ho hl => ?_, fun hmode ho => ?_⟩
    · have hstop := State.parityAbort_halt (s := { r with regH := r.p }) hmode r.p
      exact ⟨_, habort (State.parityStops_halt hmode), hstop ▸ State.finish_completed _⟩
    · exact ⟨_, _, habort (State.parityStops_interrupt hmode fun _ => hl),
        State.parityAbort_signals (s := { r with regH := r.p }) hmode ho r.p, State.finish_completed _⟩
    · have hstop := State.parityAbort_waits (s := { r with regH := r.p }) hmode ho r.p
      exact ⟨_, habort (State.parityStops_interrupt hmode fun h => absurd (ho.symm.trans h) nofun),
        hstop ▸ State.finish_completed _⟩
  case ignored => rw [State.checkedRead, State.not_parityStops h, Bool.and_false, if_neg nofun]

end Sys2Proof.Machine
end

section
/-! A step runs the decoded instruction, with the boundary and the end around it (40_memory_reference.md R120;
60_exceptions.md R294, R323; 70_reset_and_hazards.md R345). -/

namespace Sys2Proof.Machine

open Sys2Proof

/-! ### The fetch -/

theorem State.nextProgramAddress_eq {s : State} (h : s.holdsProgramAddress = false) : s.nextProgramAddress = s.p + 1 :=
  if_neg (by simp [h])

theorem State.fetch_read {s : State} {w : Word} (hstarted : s.started = false) (hp : s.holdsProgramAddress = false)
    (hw : s.checkedRead s.p = .ok w) : s.fetch = .ok { s with regH := s.p, regD := w, p := s.p + 1 } := by
  rw [State.fetch, if_neg (by simp [hstarted]), hw, State.nextProgramAddress_eq hp]

theorem State.fetch_started {s : State} (hstarted : s.started = true) (hp : s.holdsProgramAddress = false) :
    s.fetch = .ok { s with started := false, p := s.p + 1 } := by
  rw [State.fetch, if_pos hstarted, State.nextProgramAddress_eq hp]

/-! ### The instruction in D -/

/-- An instruction step runs what `fetch` has brought to D, and ends it. -/
theorem State.instructionStep_runs {s u : State} (h : s.fetch = .ok u)
    (hexit : u.exitCondition = true → ∃ m, decodeWord u.regD = .ldx m) :
    (∀ t, exec (decodeWord u.regD) u = .next t → s.instructionStep = .next t.complete) ∧
    (∀ f, exec (decodeWord u.regD) u = .fault f → s.instructionStep = .fault f) ∧
    (∀ f, exec (decodeWord u.regD) u = .refused f → s.instructionStep = .refused f) := by
  have hpair : ¬(u.exitCondition && !isLoadIndex (decodeWord u.regD)) = true := by
    intro hbroken
    obtain ⟨hset, hother⟩ := Bool.and_eq_true_iff.1 hbroken
    obtain ⟨m, hldx⟩ := hexit hset
    rw [hldx] at hother
    exact absurd hother nofun
  have hstep : s.instructionStep = u.executeD := by rw [State.instructionStep, h]
  rw [hstep, State.executeD, if_neg hpair]
  refine ⟨fun t ht => ?_, fun f hf => ?_, fun f hf => ?_⟩
  · rw [ht]
  · rw [hf]
  · rw [hf]

/-- The two bytes of a word that can be read decode as the word does. -/
theorem State.decodeBytes_readWord {s : State} {addr w : Word} {i : Instr} (hw : s.checkedRead addr = .ok w)
    (hlocation : s.hasLocation addr = true)
    (hd : decodeBytes [s.mem.byteAt (2 * addr.toNat), s.mem.byteAt (2 * addr.toNat + 1)] = .ok (i, [])) :
    i = decodeWord w := by
  obtain rfl := State.checkedRead_ok hw
  rw [State.readWord, if_pos hlocation]
  injection hd with hd
  exact (congrArg Prod.fst hd).symm

/-- Settles O56. -/
theorem stepRunsTheDecodedInstruction : Obligations.StepRunsTheDecodedInstruction := by
  refine ⟨fun s r i w henv hdio hrun hhalt hstarted hp hr hwff hw hlocation hd hexit => ?fetched,
    fun s r henv hdio hrun hhalt hwff hstarted hp hexit hr => ?first, fun s t hidle hdio hhalt hwff hp hexit ht => ?single,
    fun u => ⟨fun h => ?held, fun h => ?ended⟩⟩
  case fetched =>
    obtain ⟨hstep, -, hstarted1, hpanel⟩ := step_instruction henv hdio hrun hhalt hstarted hr hwff
    have hp1 : r.holdsProgramAddress = false := by rw [State.holdsProgramAddress, hpanel]; exact hp
    obtain rfl := State.decodeBytes_readWord hw hlocation hd
    rw [hstep]
    have hruns := State.instructionStep_runs (State.fetch_read hstarted1 hp1 hw) hexit
    exact ⟨(encodeUndoesDecode w).1, hruns⟩
  case first =>
    have hsignal := State.ioSignal_frame { s with parityFaults := [] }
    have hstarted1 : r.started = true := by rw [hr, hsignal]; exact hstarted
    have hstep : step s = r.instructionStep := by
      have hwff1 : r.wff = false := by rw [hr, hsignal]; exact hwff
      rw [step_pass henv, State.pass_running (s := { s with parityFaults := [] }) hdio hrun hhalt, ← hr,
        State.recognitionPoint, if_pos hstarted1, hwff1]
      rfl
    have hp1 : r.holdsProgramAddress = false := by rw [hr, hsignal]; exact hp
    have hregD : r.regD = s.regD := by rw [hr, hsignal]
    have hpc : r.p = s.p := by rw [hr, hsignal]
    have hexit1 : r.exitCondition = s.exitCondition := by rw [hr, hsignal]
    obtain ⟨hnext, -, hrefused⟩ := State.instructionStep_runs (State.fetch_started hstarted1 hp1)
      (fun h => hregD ▸ hexit (hexit1 ▸ h))
    rw [hstep, ← hregD, ← hpc]
    exact ⟨hnext, hrefused⟩
  case single =>
    obtain ⟨hnext, -⟩ := State.instructionStep_runs (State.fetch_started (s := s.toRun) rfl hp) hexit
    have hsingle : s.singleStep = .next t.complete.toIdle := by rw [State.singleStep, hnext t ht]
    have hoperates : ¬(!s.idle || s.parityHalt || s.dio.isSome) = true := by simp [hidle, hhalt, hdio]
    exact (if_neg hoperates).trans hsingle
  case held => exact if_pos (Option.isSome_iff_ne_none.2 h)
  case ended =>
    have hcomplete : u.complete = u.finish := if_neg (by simp [h])
    rw [hcomplete]
    exact u.finish_completed

end Sys2Proof.Machine
end

section
/-! The operator's panel (60_exceptions.md R323; 70_reset_and_hazards.md R340 to R345). -/

namespace Sys2Proof.Machine

open Sys2Proof

/-! ### The switches that act in IDLE -/

theorem State.whenIdle_idle {s : State} (h : s.idle = true) (s1 : State) : s.whenIdle s1 = .next s1 := if_pos h

theorem State.whenIdle_not_idle {s : State} (h : s.idle = false) (s1 : State) : s.whenIdle s1 = .next s :=
  if_neg (by simp [h])

/-- The levels after INITIALIZE RESET. -/
theorem State.initializeReset_level (s : State) (level : Level) : s.initializeReset.level level =
    if isOverride level ∧ installed s.cfg level = true then ⟨.armed, true⟩ else ⟨.disarmed, false⟩ := by
  have hcell : s.initializeReset.level level =
      if overrideInstalled s.cfg level then ⟨.armed, true⟩ else ⟨.disarmed, false⟩ := resetLevels_getElem s.cfg level
  have hiff : overrideInstalled s.cfg level = true ↔ isOverride level = true ∧ installed s.cfg level = true := by
    have hinstalled (ho : isOverride level = true) : installed s.cfg level = overrideInstalled s.cfg level := by
      have hc : ¬isCounter level = true := by
        simp only [isOverride, isCounter, Bool.and_eq_true, decide_eq_true_eq] at ho ⊢
        omega
      rw [installed, if_neg hc, if_pos ho]
    exact ⟨fun h => have ho := isOverride_of_overrideInstalled h
      ⟨ho, (hinstalled ho).trans h⟩, fun ⟨ho, hi⟩ => (hinstalled ho).symm.trans hi⟩
  rw [hcell]
  exact if_congr hiff rfl rfl

/-- MEMORY FETCH of a word that can be read. -/
theorem State.memoryFetch_ok {s : State} (h : s.parityError s.regS = false) :
    s.memoryFetch = { s with p := s.regS, regH := s.regS, regD := s.readWord s.regS } :=
  State.accessInstruction_ok { s with p := s.regS } h

theorem State.movePanel_toIdle {s : State} {panel : Panel} (hp : s.powered = true) (hr : s.computeRuns = true)
    (hi : { s with panel := panel }.computeRuns = false) : s.movePanel panel = { s with panel := panel }.toIdle := by
  simp [State.movePanel, hp, hr, hi]

theorem State.movePanel_toRun {s : State} {panel : Panel} (hp : s.powered = true) (hr : s.computeRuns = false)
    (hi : { s with panel := panel }.computeRuns = true) : s.movePanel panel = { s with panel := panel }.toRun := by
  simp [State.movePanel, hp, hr, hi]

/-- Settles O58. -/
theorem resetInitializes : Obligations.ResetInitializes := by
  refine ⟨fun s h => ?reset, fun s h => ?idle, fun s hm => ?store, fun s hp hk hc he => ?stop, fun s r h action ha => ?locked⟩
  case reset =>
    exact ⟨_, State.whenIdle_idle h _, rfl, s.initializeReset_level⟩
  case idle =>
    refine ⟨State.whenIdle_idle h _, State.whenIdle_idle h _, fun he => ?_, fun he => ?_, fun shown load hs hl => ?_,
      fun r => State.whenIdle_idle h _, ?_⟩
    · exact (State.whenIdle_idle h _).trans (congrArg Host.Outcome.next (State.memoryFetch_ok he))
    · exact (State.whenIdle_idle h _).trans
        (congrArg Host.Outcome.next (State.memoryFetch_ok (s := { s with regS := s.regS + 1 }) he))
    · have hload (v : Word) : load v = s.setSelected v := (hl v).trans rfl
      have hshown : shown = s.selected := hs.trans rfl
      rw [hload, hload, hshown]
      exact ⟨State.whenIdle_idle h _, State.whenIdle_idle h _⟩
    · obtain ⟨hp, hc⟩ := Bool.and_eq_true_iff.1 h
      exact congrArg Host.Outcome.next (State.movePanel_toRun hp (by simpa using hc) (by simp [State.computeRuns]))
  case store =>
    have hcanonical : s.mem.Canonical := ((Memory.wf_iff s.mem).1 hm).1
    refine ⟨fun hlocation => ?_, fun other hother => State.readWord_writeWord_ne _ _ hother⟩
    rw [State.readWord_writeWord _ _ _ _ hcanonical, if_pos ⟨rfl, hlocation⟩]
  case stop =>
    have hmoved : s.movePanel { s.panel with compute := .idle } =
        State.toIdle { s with panel := { s.panel with compute := .idle } } :=
      State.movePanel_toIdle hp (by simp [State.computeRuns, hc]) (by simp [State.computeRuns, hk])
    exact congrArg Host.Outcome.next (hmoved.trans (State.accessInstruction_ok _ he))
  case locked =>
    simp only [List.mem_cons, List.not_mem_nil, or_false] at ha
    obtain rfl | rfl | rfl | rfl | rfl | rfl | rfl | rfl | rfl := ha
    case inr.inr.inr.inr.inr.inr.inr.inl => exact if_pos (by simp [h])
    all_goals exact State.whenIdle_not_idle h _

end Sys2Proof.Machine
end
